-- ==== Sys2Proof/Word.lean ====
section
/-!
DEFINITION. The element types of the block's address spaces and fields (20_memory.md rules R50, R54),
and bit strings (00_scope.md rule R13).
-/

namespace Sys2Proof

/-- One bit: an element of `IN`, `PLANE_P` or `PLANE_S` (rule R50). -/
abbrev Bit := Bool

/-- A bit string in reading order, the bit read first at the head (rule R13). -/
abbrev Bits := List Bit

/-- A pair: two consecutive bits read as a value 0 to 3, first-read bit most significant (rule R18). -/
abbrev Pair := BitVec 2

/-- A pixel: a 2-bit colour index (rule R9). -/
abbrev Pixel := BitVec 2

end Sys2Proof
end

