-- ==== Sys2Proof/Kinds.lean ====
section
/-!
DEFINITION. The closed sets of names the spec gives: the error kinds (60_exceptions.md rule R200), the
sequencer's phases (10_state.md rule R27), the decoding contexts of the stream elements
(30_encoding.md rule R72) and the two merge orders (42_combiner.md rule R140).
-/

namespace Sys2Proof

/-- The six error kinds of rule R200; their codes are rule R201 (`DecodeError.code`). -/
inductive DecodeError where
  | invalidDimensions
  | cursorExhausted
  | malformedVarint
  | planeLengthMismatch
  | reservedMode
  | pixelCountMismatch
  deriving DecidableEq, Repr

/-- The twelve phases of rule R27; their codes are `Phase.code`. -/
inductive Phase where
  | idle
  | hdr
  | ordf
  | ptypeP
  | planeP
  | modef
  | ptypeS
  | planeS
  | merge
  | route
  | done
  | fault
  deriving DecidableEq, Repr

/-- What the decoder expects at the cursor: the column "decoded when" of rule R72's table. LIT and LEND
share one context, since only the bits read tell them apart. -/
inductive Ctx where
  /-- `PHASE = HDR`: DIM. -/
  | hdr
  /-- `PHASE = ORDF`: ORD. -/
  | ordf
  /-- `PHASE = PTYPE_P`: PTP. -/
  | ptypeP
  /-- a plane phase with `ISRUN = 1`: RUN. -/
  | run
  /-- a plane phase with `ISRUN = 0`: LIT or LEND. -/
  | literal
  /-- `PHASE = MODEF`: MODE. -/
  | modef
  /-- `PHASE = PTYPE_S`: PTS. -/
  | ptypeS
  deriving DecidableEq, Repr

/-- The merger's `order` argument (rule R140). -/
inductive Order where
  | aIsLow
  | aIsHigh
  deriving DecidableEq, Repr

end Sys2Proof
end

