-- ==== Sys2Proof/Config.lean ====
section
/-!
DEFINITION. What is fixed for a machine and no step writes: the constants of 00_scope.md rules R9 and
R10, the launch inputs' types (10_state.md rules R21 to R24), and the free values, which have no body.
-/

namespace Sys2Proof

namespace Config

/-- `TILE` (rule R9): a tile is 8 x 8 pixels. -/
abbrev tile : Nat := 8

/-- `TILE_PIXELS` (rule R9). -/
abbrev tilePixels : Nat := 64

/-- `CANVAS_TILES` (rule R9). -/
abbrev canvasTiles : Nat := 7

/-- `CANVAS` (rule R9): the canvas is 56 x 56 pixels. -/
abbrev canvasSide : Nat := 56

/-- `DIM_MIN` (rule R9). -/
abbrev dimMin : Nat := 1

/-- `DIM_MAX` (rule R9). -/
abbrev dimMax : Nat := 7

/-- `MAX_PLANE_BITS` (rule R9): the elements of each buffer (rule R50). -/
abbrev maxPlaneBits : Nat := 3136

/-- `PAIRS_PER_TILE` (rule R10, 90_conflicts.md C2, log 13). -/
abbrev pairsPerTile : Nat := 32

/-- The registers that can "hold no value" (10_state.md rule R46, 60_exceptions.md rule R210): the
arguments of `freeReg`. -/
inductive FreeReg where
  | cur | th | tw | ord | mode | isRun | total | cnt | k | pv | rv | n
  deriving DecidableEq, Repr

/-- DESIGN CHOICE (log 1), safe: the value register `r` has after the `i`-th event that leaves every
register without a value. It has no body: nothing can evaluate it or prove anything of it. -/
opaque freeReg : FreeReg → Nat → Nat

/-- DESIGN CHOICE (log 8), safe: bit `i` of the plane that host function number `id` gives as
`MODE_POST(m, P, S)`, the secondary plane when `second`, else the primary (rule R24). It has no body,
so a statement about it holds of every length-preserving function. -/
opaque modePostBit (id : Nat) (m : BitVec 2) (p s : Bits) (second : Bool) (i : Nat) : Bit

end Config

/-- A tile offset `(OX, OY)` (rule R23). -/
structure Offset where
  ox : Nat
  oy : Nat
  deriving DecidableEq, Repr

/-- The placement rule `PLACE` as plain data: entries `((W, H), offset)`, the first one for the
dimensions counts, dimensions with no entry are at the default `(0, 0)` (rule R23, log 6). -/
abbrev Placement := List ((Nat × Nat) × Offset)

/-- Which `MODE_POST` the host configured (rule R24): the default, or its function number `id`. -/
inductive ModePost where
  | noEffect
  | host (id : Nat)
  deriving DecidableEq, Repr

/-- The mode configuration `MODECFG` (rule R24): `MODE_TYPE` as entries `((m, t), starts with a run)`,
the first one for the arguments counts, arguments with no entry take the default `t = 0`; and
`MODE_POST`. -/
structure ModeCfg where
  types : List ((BitVec 2 × Bit) × Bool)
  post : ModePost
  deriving DecidableEq, Repr

/-- The launch inputs (rules R21 to R24, R166). `LEN` is the length of `input`. -/
structure Launch where
  input : Bits
  base : Nat
  place : Placement
  modeCfg : ModeCfg
  deriving DecidableEq, Repr

end Sys2Proof
end

