-- ==== Sys2Proof/Syntax.lean ====
section
/-!
DEFINITION. The stream elements of the block, one constructor per row of spec/opcode_table.json
(30_encoding.md rules R72, R89), and `runLong` for the general RUN row that the table cannot list.
-/

namespace Sys2Proof

/-- A stream element with its operands. The state, not the bits, selects which element stands at the
cursor (rule R72), so the constructors carry the fields and nothing of the state. -/
inductive Instr where
  /-- DIM: tile height `h`, tile width `w`, any nibbles (rules R75, R170). -/
  | dim (h w : BitVec 4)
  /-- ORD: the plane order flag (rules R76, R171). -/
  | ord (f : Bit)
  /-- PTP: the primary plane's initial packet type, 0 run, 1 literal (rules R77, R172). -/
  | ptp (t : Bit)
  /-- RUN.k1: prefix length 1, residual `v` (rules R78, R118). -/
  | runK1 (v : BitVec 1)
  /-- RUN.k2: prefix length 2, residual `v` (rules R78, R118). -/
  | runK2 (v : BitVec 2)
  /-- RUN.k3: prefix length 3, residual `v` (rules R78, R118). -/
  | runK3 (v : BitVec 3)
  /-- RUN.k4: prefix length 4, residual `v` (rules R78, R118). -/
  | runK4 (v : BitVec 4)
  /-- RUN.k5: prefix length 5, residual `v` (rules R78, R118). -/
  | runK5 (v : BitVec 5)
  /-- RUN.k6: prefix length 6, residual `v` (rules R78, R118). -/
  | runK6 (v : BitVec 6)
  /-- RUN.k7: prefix length 7, residual `v` (rules R78, R118). -/
  | runK7 (v : BitVec 7)
  /-- RUN.k8: prefix length 8, residual `v` (rules R78, R118). -/
  | runK8 (v : BitVec 8)
  /-- RUN.k9: prefix length 9, residual `v` (rules R78, R118). -/
  | runK9 (v : BitVec 9)
  /-- RUN.k10: prefix length 10, residual `v` (rules R78, R118). -/
  | runK10 (v : BitVec 10)
  /-- RUN.k11: prefix length 11, residual `v` (rules R78, R118). -/
  | runK11 (v : BitVec 11)
  /-- RUN.k12: prefix length 12, residual `v` (rules R78, R118). -/
  | runK12 (v : BitVec 12)
  /-- RUN.k13: prefix length 13, residual `v` (rules R78, R118). -/
  | runK13 (v : BitVec 13)
  /-- RUN.k14: prefix length 14, residual `v` (rules R78, R118). -/
  | runK14 (v : BitVec 14)
  /-- RUN.k15: prefix length 15, residual `v` (rules R78, R118). -/
  | runK15 (v : BitVec 15)
  /-- RUN.k16: prefix length 16, residual `v` (rules R78, R118). -/
  | runK16 (v : BitVec 16)
  /-- RUN with prefix length `k` of 17 or more, residual `v`: the last row of rule R78's table, decoded
  by the same rule (rules R89, R107). -/
  | runLong (k v : Nat)
  /-- LIT.1: the pair `01` (rules R79, R119). -/
  | lit1
  /-- LIT.2: the pair `10` (rules R79, R119). -/
  | lit2
  /-- LIT.3: the pair `11` (rules R79, R119). -/
  | lit3
  /-- LEND: the pair `00` that ends a literal packet (rules R80, R120). -/
  | lend
  /-- MODE.1: the mode field `01` (rules R81, R174). -/
  | mode1
  /-- MODE.2: the mode field `10` (rules R81, R174). -/
  | mode2
  /-- MODE.3: the mode field `11` (rules R81, R174). -/
  | mode3
  /-- MODE.RSV: the reserved mode field `00` (rules R83, R207). -/
  | modeRsv
  /-- PTS: the secondary plane's initial packet type (rules R77, R175). -/
  | pts (t : Bit)
  deriving DecidableEq, Repr

end Sys2Proof
end

