-- ==== Sys2Proof/WellFormed.lean ====
section
/-!
DEFINITION. Which terms of `Instr` spell a stream element. Every operand of a table row is bounded by
its type; only the general RUN form carries checks.
-/

namespace Sys2Proof

/-- `runLong` stands for prefix lengths the table has no row for, and its residual has `k` bits
(30_encoding.md rule R78). Illegal header nibbles are well formed: the block reads them and raises
`InvalidDimensions` (rule R83). -/
def Instr.wellFormed : Instr → Bool
  | .runLong k v => decide (17 ≤ k) && decide (v < 2 ^ k)
  | .dim _ _ | .ord _ | .ptp _ | .pts _ => true
  | .runK1 _ | .runK2 _ | .runK3 _ | .runK4 _ | .runK5 _ | .runK6 _ | .runK7 _ | .runK8 _ => true
  | .runK9 _ | .runK10 _ | .runK11 _ | .runK12 _ | .runK13 _ | .runK14 _ | .runK15 _ | .runK16 _ => true
  | .lit1 | .lit2 | .lit3 | .lend => true
  | .mode1 | .mode2 | .mode3 | .modeRsv => true

end Sys2Proof
end

