-- ==== Sys2Proof/Decode.lean ====
section
/-!
DEFINITION. Bits to stream elements and back: the values of bit strings (00_scope.md rule R14), the byte
order (20_memory.md rule R51), the codeword decoder (40_varint.md rule R101), `decode` and `encode`
(30_encoding.md rules R72 to R86), and the reading of a word numbered as spec/opcode_table.json does.
-/

namespace Sys2Proof

/-- `value(s)` with `acc` for the bits already read (rule R14). -/
def valueFrom (acc : Nat) : Bits → Nat
  | [] => acc
  | b :: bs => valueFrom (2 * acc + b.toNat) bs

/-- `value(s)`: the first-read bit is the most significant (rule R14). -/
def value (s : Bits) : Nat := valueFrom 0 s

/-- The low `n` bits of `v` as a bit string, most significant first (rules R13, R14). -/
def bitsOf : Nat → Nat → Bits
  | 0, _ => []
  | n + 1, v => v.testBit n :: bitsOf n v

/-- The host's bytes as the bits of `IN`: bit address `8j + i` is bit `7 - i` of byte `j` (rule R51). -/
def bitsOfBytes : List (BitVec 8) → Bits
  | [] => []
  | b :: bs => bitsOf 8 b.toNat ++ bitsOfBytes bs

/-- The error of an element whose bits run out before `LEN`: inside a RUN `MalformedVarint`, anywhere
else `CursorExhausted` (rules R85, R203, R204). -/
def Ctx.exhaustion : Ctx → DecodeError
  | .run => .malformedVarint
  | .hdr | .ordf | .ptypeP | .literal | .modef | .ptypeS => .cursorExhausted

/-- `ReadBits(n)` over the bits that remain before `LEN`: the value of the next `n` and the rest, or
`CursorExhausted`, tested on the whole field (rules R16, R203). -/
def readField (n : Nat) (bits : Bits) : Except DecodeError (Nat × Bits) :=
  if bits.length < n then .error .cursorExhausted
  else .ok (value (bits.take n), bits.drop n)

/-- What `VarintDecode` leaves in the varint unit's registers `K`, `PV`, `RV`, `N` (rules R36, R101). -/
structure Varint where
  k : Nat
  pv : Nat
  rv : Nat
  n : Nat
  deriving DecidableEq, Repr

/-- The loop of rule R101: reads up to and including the first 0 bit, counting in `k` and collecting the
value in `pv`. `none` when the input ends first. -/
def readRunPrefix (k pv : Nat) : Bits → Option (Nat × Nat × Bits)
  | [] => none
  | true :: bs => readRunPrefix (k + 1) (2 * pv + 1) bs
  | false :: bs => some (k + 1, 2 * pv, bs)

/-- `VarintDecode` (rule R101) over the bits that remain before `LEN`. -/
def varintDecode (bits : Bits) : Except DecodeError (Varint × Bits) :=
  match readRunPrefix 0 0 bits with
  | none => .error .malformedVarint
  | some (k, pv, rest) =>
    if rest.length < k then .error .malformedVarint
    else
      let rv := value (rest.take k)
      .ok (⟨k, pv, rv, pv + rv + 1⟩, rest.drop k)

/-- The prefix of a codeword: `k - 1` ones and a zero (rule R78). -/
def runPrefix (k : Nat) : Bits := List.replicate (k - 1) true ++ [false]

/-- The reference encoder `encode(n)` of rule R86. It is no function of the hardware (rule R6). -/
def encodeRunLength (n : Nat) : Bits :=
  let x := n + 1
  let k := x.log2
  bitsOf k (2 ^ k - 2) ++ bitsOf k (x - 2 ^ k)

/-- The RUN element with prefix length `k` and residual `v` (rules R78, R89). -/
def runInstr (k v : Nat) : Instr :=
  match k with
  | 1 => .runK1 (BitVec.ofNat 1 v)
  | 2 => .runK2 (BitVec.ofNat 2 v)
  | 3 => .runK3 (BitVec.ofNat 3 v)
  | 4 => .runK4 (BitVec.ofNat 4 v)
  | 5 => .runK5 (BitVec.ofNat 5 v)
  | 6 => .runK6 (BitVec.ofNat 6 v)
  | 7 => .runK7 (BitVec.ofNat 7 v)
  | 8 => .runK8 (BitVec.ofNat 8 v)
  | 9 => .runK9 (BitVec.ofNat 9 v)
  | 10 => .runK10 (BitVec.ofNat 10 v)
  | 11 => .runK11 (BitVec.ofNat 11 v)
  | 12 => .runK12 (BitVec.ofNat 12 v)
  | 13 => .runK13 (BitVec.ofNat 13 v)
  | 14 => .runK14 (BitVec.ofNat 14 v)
  | 15 => .runK15 (BitVec.ofNat 15 v)
  | 16 => .runK16 (BitVec.ofNat 16 v)
  | k => .runLong k v

/-- The prefix length and residual a RUN element carries, `none` for every other element. -/
def Instr.runFields : Instr → Option (Nat × Nat)
  | .runK1 v => some (1, v.toNat)
  | .runK2 v => some (2, v.toNat)
  | .runK3 v => some (3, v.toNat)
  | .runK4 v => some (4, v.toNat)
  | .runK5 v => some (5, v.toNat)
  | .runK6 v => some (6, v.toNat)
  | .runK7 v => some (7, v.toNat)
  | .runK8 v => some (8, v.toNat)
  | .runK9 v => some (9, v.toNat)
  | .runK10 v => some (10, v.toNat)
  | .runK11 v => some (11, v.toNat)
  | .runK12 v => some (12, v.toNat)
  | .runK13 v => some (13, v.toNat)
  | .runK14 v => some (14, v.toNat)
  | .runK15 v => some (15, v.toNat)
  | .runK16 v => some (16, v.toNat)
  | .runLong k v => some (k, v)
  | .dim _ _ | .ord _ | .ptp _ | .pts _ => none
  | .lit1 | .lit2 | .lit3 | .lend | .mode1 | .mode2 | .mode3 | .modeRsv => none

/-- The element of a pair read where a literal packet is read: `00` is LEND (rules R79, R80). The one
place that says what a `00` there is (90_conflicts.md C1, log 12). -/
def pairInstr (p : Nat) : Instr :=
  match p with
  | 0 => .lend
  | 1 => .lit1
  | 2 => .lit2
  | _ => .lit3

/-- The element of the two mode bits (rules R81, R83). -/
def modeInstr (m : Nat) : Instr :=
  match m with
  | 0 => .modeRsv
  | 1 => .mode1
  | 2 => .mode2
  | _ => .mode3

/-- The element at the cursor, from the context the state gives and the bits that remain before `LEN`,
and the bits after it; or the name of the error when they run out (rules R72, R74, R85). -/
def decode (c : Ctx) (bits : Bits) : Except DecodeError (Instr × Bits) :=
  match c with
  | .hdr =>
    match readField 8 bits with
    | .error e => .error e
    | .ok (b, rest) => .ok (.dim (BitVec.ofNat 4 (b / 16)) (BitVec.ofNat 4 b), rest)
  | .ordf =>
    match readField 1 bits with
    | .error e => .error e
    | .ok (f, rest) => .ok (.ord (f.testBit 0), rest)
  | .ptypeP =>
    match readField 1 bits with
    | .error e => .error e
    | .ok (t, rest) => .ok (.ptp (t.testBit 0), rest)
  | .run =>
    match varintDecode bits with
    | .error e => .error e
    | .ok (r, rest) => .ok (runInstr r.k r.rv, rest)
  | .literal =>
    match readField 2 bits with
    | .error e => .error e
    | .ok (p, rest) => .ok (pairInstr p, rest)
  | .modef =>
    match readField 2 bits with
    | .error e => .error e
    | .ok (m, rest) => .ok (modeInstr m, rest)
  | .ptypeS =>
    match readField 1 bits with
    | .error e => .error e
    | .ok (t, rest) => .ok (.pts (t.testBit 0), rest)

/-- The codeword with prefix length `k` and residual `v` (rule R78). -/
def encodeRun (k v : Nat) : Bits := runPrefix k ++ bitsOf k v

/-- The bits of an element in reading order, from the pattern column of rule R72's table. -/
def encode : Instr → Bits
  | .dim h w => bitsOf 4 h.toNat ++ bitsOf 4 w.toNat
  | .ord f => [f]
  | .ptp t => [t]
  | .runK1 v => encodeRun 1 v.toNat
  | .runK2 v => encodeRun 2 v.toNat
  | .runK3 v => encodeRun 3 v.toNat
  | .runK4 v => encodeRun 4 v.toNat
  | .runK5 v => encodeRun 5 v.toNat
  | .runK6 v => encodeRun 6 v.toNat
  | .runK7 v => encodeRun 7 v.toNat
  | .runK8 v => encodeRun 8 v.toNat
  | .runK9 v => encodeRun 9 v.toNat
  | .runK10 v => encodeRun 10 v.toNat
  | .runK11 v => encodeRun 11 v.toNat
  | .runK12 v => encodeRun 12 v.toNat
  | .runK13 v => encodeRun 13 v.toNat
  | .runK14 v => encodeRun 14 v.toNat
  | .runK15 v => encodeRun 15 v.toNat
  | .runK16 v => encodeRun 16 v.toNat
  | .runLong k v => encodeRun k v
  | .lit1 => [false, true]
  | .lit2 => [true, false]
  | .lit3 => [true, true]
  | .lend => [false, false]
  | .mode1 => [false, true]
  | .mode2 => [true, false]
  | .mode3 => [true, true]
  | .modeRsv => [false, false]
  | .pts t => [t]

/-- The context an element is decoded in: the column "decoded when" of rule R72's table. -/
def Instr.ctx : Instr → Ctx
  | .dim _ _ => .hdr
  | .ord _ => .ordf
  | .ptp _ => .ptypeP
  | .runK1 _ | .runK2 _ | .runK3 _ | .runK4 _ | .runK5 _ | .runK6 _ | .runK7 _ | .runK8 _ => .run
  | .runK9 _ | .runK10 _ | .runK11 _ | .runK12 _ | .runK13 _ | .runK14 _ | .runK15 _ | .runK16 _ => .run
  | .runLong _ _ => .run
  | .lit1 | .lit2 | .lit3 | .lend => .literal
  | .mode1 | .mode2 | .mode3 | .modeRsv => .modef
  | .pts _ => .ptypeS

/-- An element's length in bits: the column "length" of rule R72's table, what it advances the cursor by
(rule R73). -/
def Instr.length : Instr → Nat
  | .dim _ _ => 8
  | .ord _ | .ptp _ | .pts _ => 1
  | .runK1 _ => 2
  | .runK2 _ => 4
  | .runK3 _ => 6
  | .runK4 _ => 8
  | .runK5 _ => 10
  | .runK6 _ => 12
  | .runK7 _ => 14
  | .runK8 _ => 16
  | .runK9 _ => 18
  | .runK10 _ => 20
  | .runK11 _ => 22
  | .runK12 _ => 24
  | .runK13 _ => 26
  | .runK14 _ => 28
  | .runK15 _ => 30
  | .runK16 _ => 32
  | .runLong k _ => 2 * k
  | .lit1 | .lit2 | .lit3 | .lend => 2
  | .mode1 | .mode2 | .mode3 | .modeRsv => 2

/-- Whether `w`, of more than two bits, is the number a RUN codeword spells by `value`: half its bits are
a prefix (rule R78). -/
def isRunWord (w : Nat) : Bool :=
  let len := w.log2 + 1
  let k := len / 2
  len % 2 == 0 && w / 2 ^ k == 2 ^ k - 2

/-- Which context, and which element length, a bare word of the opcode table is read in (log 19). A word
does not say it, since the state selects the element (rule R72). The rule: one bit is an ORD; else, of
the table's rows with fixed bits that match, the one with the most fixed bits and of these the first
(so two bits are a pair of a literal packet); else 8 bits are a DIM. -/
def tableContext (nbits w : Nat) : Option (Ctx × Nat) :=
  if nbits ≤ 1 then (if w < 2 then some (.ordf, 1) else none)
  else if w < 4 then some (.literal, 2)
  else if isRunWord w then some (.run, w.log2 + 1)
  else if w < 256 then some (.hdr, 8)
  else none

/-- The bits of such a word in reading order: the word is numbered by `value` (30_encoding.md rule R89),
so its most significant bit is read first. -/
def tableBits (len w : Nat) : Bits := bitsOf len w

/-- The instruction the decoder reads from a word numbered as spec/opcode_table.json numbers it. -/
def decodeTableWord (nbits w : Nat) : Option Instr :=
  match tableContext nbits w with
  | none => none
  | some (c, len) =>
    match decode c (tableBits len w) with
    | .ok (i, _) => some i
    | .error _ => none

end Sys2Proof
end

