-- ==== Sys2Proof/Machine/State.lean ====
section
/-!
DEFINITION. The architectural state (10_state.md), its buffers, the machine after power-on (rule R45),
and the reasons a step of the MODEL can stop. A decode error of the block is no stop: `raise` is a next
state (60_exceptions.md rule R210).
-/

namespace Sys2Proof.Machine

/-- A buffer of the block (20_memory.md rule R50): its elements that hold a value, as pairs of address and
value, addresses strictly rising. An address that is not listed holds no value (10_state.md rule R40,
log 9). -/
abbrev Memory (α : Type) := List (Nat × α)

/-- The canonical form of a buffer of 3136 elements (rule R50): addresses strictly rising and inside the
space. No listed entry can equal what an unlisted address reads as, which is no value. -/
abbrev Memory.wf {α : Type} (m : Memory α) : Prop :=
  m.Pairwise (fun a b => a.1 < b.1) ∧ ∀ c ∈ m, c.1 < Config.maxPlaneBits

/-- The state. Field by field it is the list under '## State' of INVENTORY.md; the last two fields are the
model's own. -/
structure State where
  /-- `CUR` (rule R26): the bit address in `IN` of the next bit to read. -/
  cur : Nat
  /-- `PHASE` (rule R27). -/
  phase : Phase
  /-- `TH` (rule R28): tile height. -/
  th : BitVec 4
  /-- `TW` (rule R28): tile width. -/
  tw : BitVec 4
  /-- `ORD` (rule R29): the plane order flag. -/
  ord : Bit
  /-- `MODE` (rule R30): the encoding mode. -/
  mode : BitVec 2
  /-- `ISRUN` (rule R31): a run packet is expected next. -/
  isRun : Bit
  /-- `TOTAL` (rule R32): the pairs one plane needs. -/
  total : BitVec 11
  /-- `CNT` (rule R33): the pairs produced so far of the plane being decoded. -/
  cnt : BitVec 11
  /-- `ERR` (rule R34): `none` is the spec's code 0, no error raised. -/
  err : Option DecodeError
  /-- `K` (rule R36): prefix length. -/
  k : Nat
  /-- `PV` (rule R36): value of the prefix. -/
  pv : Nat
  /-- `RV` (rule R36): value of the residual. -/
  rv : Nat
  /-- `N` (rule R36): decoded run length. -/
  n : Nat
  /-- `PLANE_P` (rule R37). -/
  planeP : Memory Bit
  /-- `PLANE_S` (rule R37). -/
  planeS : Memory Bit
  /-- `PIX` (rule R38). -/
  pix : Memory Pixel
  /-- `CANVAS` (rule R39), element `(y, x)` at address `56 * y + x` (log 25). -/
  canvas : Memory Pixel
  /-- The launch inputs `IN`, `LEN`, `BASE`, `PLACE`, `MODECFG` of the launch that runs or ran last (rules
  R21 to R24). No step of a decode writes them. -/
  launch : Launch
  /-- The model's own (log 4): the launches the host has still to START, oldest first (rule R166). -/
  pending : List Launch
  /-- The model's own (log 1): how many events have left the registers without a value. -/
  fresh : Nat
  deriving DecidableEq, Repr

/-- The launch inputs before the first launch: parameters of the step relation, for which the spec gives
no value but the defaults of `PLACE` and `MODECFG` (rules R21 to R24). DESIGN CHOICE (log 3), unsafe. -/
def State.initialLaunch : Launch where
  input := []
  base := 0
  place := []
  modeCfg := ⟨[], .noEffect⟩

/-- Power-on (rule R45): `PHASE = IDLE`, `ERR = 0`, every buffer element without a value. The registers
hold no value there; the zeros are the model's. DESIGN CHOICE (log 2), unsafe. -/
def State.reset : State where
  cur := 0
  phase := .idle
  th := 0
  tw := 0
  ord := false
  mode := 0
  isRun := false
  total := 0
  cnt := 0
  err := none
  k := 0
  pv := 0
  rv := 0
  n := 0
  planeP := []
  planeS := []
  pix := []
  canvas := []
  launch := State.initialLaunch
  pending := []
  fresh := 0

/-- Why a step of the model stops where the spec gives no next state. -/
inductive Fault where
  /-- Raised by `step` in `IDLE`, `DONE` or `FAULT` when the host has no START to raise, and in a plane
  phase whose plane is already complete, which no run reaches: no step is enabled (44_sprite_decoder.md
  rule R167, log 5). A stuck state. Safe. -/
  | noStepEnabled
  /-- Raised by MERGE and ROUTE when a buffer element they read holds no value (10_state.md rule R40, log
  9). No run reaches it. Safe. -/
  | noValue
  /-- Raised by RUN, LIT, MERGE and ROUTE when they would write outside a buffer's 3136 elements
  (20_memory.md rule R50, log 10). No run reaches it. Safe. -/
  | noSuchElement
  deriving DecidableEq, Repr

/-- Why the model gives an instruction or a launch no meaning. -/
inductive Refusal where
  /-- An instruction rejected by name in `exec`. No arm uses it. Safe. -/
  | notModelled (mnemonic : String)
  /-- Raised by a meaning called in a state that does not decode that element or take that step
  (30_encoding.md rule R72, log 17). `step` never calls it so. Safe. -/
  | wrongContext
  /-- Raised by START and by `decodeSprite` for a launch outside the inputs' domain: `BASE > LEN` or a `PLACE` that leaves the
  canvas (10_state.md rules R22, R23, 93_implementation_defined.md U3, log 6). Safe. -/
  | launchNotAdmitted
  /-- Raised by `assemble`, and so by ROUTE, when the dimensions or the offset are outside the domain of
  `Assemble` (43_assembler.md rules R152, R153, 93_implementation_defined.md U12, log 18). No run reaches
  it. Safe. -/
  | outsideAssembleDomain
  deriving DecidableEq, Repr

end Sys2Proof.Machine
end

