-- ==== Sys2Proof/Machine/Flags.lean ====
section
/-!
DEFINITION. The codes and views of the control registers (10_state.md rules R27, R34, R35,
60_exceptions.md rule R201) and every condition a step tests (rule R41). The block has no arithmetic
condition codes.
-/

namespace Sys2Proof.Machine

/-- The numeric codes of `PHASE` (rule R27); 12 to 15 are never taken. -/
def phaseCode : Phase → BitVec 4
  | .idle => 0
  | .hdr => 1
  | .ordf => 2
  | .ptypeP => 3
  | .planeP => 4
  | .modef => 5
  | .ptypeS => 6
  | .planeS => 7
  | .merge => 8
  | .route => 9
  | .done => 10
  | .fault => 11

/-- The numeric codes of `ERR` (rule R201); 7 is never taken. -/
def errCode : Option DecodeError → BitVec 3
  | none => 0
  | some .invalidDimensions => 1
  | some .cursorExhausted => 2
  | some .malformedVarint => 3
  | some .planeLengthMismatch => 4
  | some .reservedMode => 5
  | some .pixelCountMismatch => 6

/-- `STATUS` (rule R35): `STATUS[3:0] = PHASE`, `STATUS[6:4] = ERR`, `STATUS[7] = 0`. -/
def status (s : State) : BitVec 8 := 0#1 ++ errCode s.err ++ phaseCode s.phase

/-- The phases in which no step is enabled and the host may START (rules R166, R167). -/
def stopped (s : State) : Bool :=
  match s.phase with
  | .idle | .done | .fault => true
  | .hdr | .ordf | .ptypeP | .planeP | .modef | .ptypeS | .planeS | .merge | .route => false

/-- The test `CNT == TOTAL` (rules R33, R122). -/
def planeComplete (s : State) : Bool := s.cnt == s.total

/-- The test of DIM (rules R170, R202): both nibbles in 1..7. -/
def dimsLegal (h w : BitVec 4) : Bool :=
  decide (Config.dimMin ≤ h.toNat) && decide (h.toNat ≤ Config.dimMax) &&
    decide (Config.dimMin ≤ w.toNat) && decide (w.toNat ≤ Config.dimMax)

/-- What element the state expects at the cursor (30_encoding.md rule R72, 44_sprite_decoder.md rule R168),
`none` where no element is decoded. In a plane phase an element is decoded only while `CNT < TOTAL`
(41_packetstream.md rules R118 to R120). -/
def contextOf (s : State) : Option Ctx :=
  match s.phase with
  | .hdr => some .hdr
  | .ordf => some .ordf
  | .ptypeP => some .ptypeP
  | .planeP | .planeS =>
    if s.cnt < s.total then some (if s.isRun then .run else .literal) else none
  | .modef => some .modef
  | .ptypeS => some .ptypeS
  | .idle | .merge | .route | .done | .fault => none

/-- `ISRUN` after PTP (rule R172): 0 means the first packet is a run packet. -/
def startsWithRun (t : Bit) : Bit := !t

/-- `ISRUN` after RUN: a literal packet comes next (rules R118, R124). -/
def isRunAfterRun : Bit := false

/-- `ISRUN` after LEND: a RUN comes next (rules R120, R124). -/
def isRunAfterLend : Bit := true

/-- The phase that follows a complete plane: `MODEF` after the primary, `MERGE` after the secondary
(rules R168, R173). -/
def phaseAfterPlane : Phase → Phase
  | .planeS => .merge
  | _ => .modef

/-- The merge order `ORD` selects, plane A being the primary plane (42_combiner.md rule R143; decisions D3,
D4, log 11). The one definition of the polarity. -/
def orderOf (ord : Bit) : Order := if ord then .aIsLow else .aIsHigh

end Sys2Proof.Machine
end

