-- ==== Sys2Proof/Machine/Operands.lean ====
section
/-!
DEFINITION. The values the steps compute from their operands and from the launch inputs: the RUN length
(40_varint.md rule R102), the pairs' bits (41_packetstream.md rule R117), `TOTAL` (10_state.md rule R32),
`PLACE` and `MODECFG` (rules R23, R24).
-/

namespace Sys2Proof.Machine

/-- `value(prefix)` of a codeword with prefix length `k`: `k - 1` ones and a zero (rules R82, R102). -/
def runPrefixValue (k : Nat) : Nat := value (runPrefix k)

/-- The operand of a RUN: `n = PV + RV + 1` (rules R82, R101). -/
def runLength (k v : Nat) : Nat := runPrefixValue k + v + 1

/-- The zero-pairs a RUN of length `n` emits: cut to what the plane still needs (rules R118, R123). -/
def runPairs (n total cnt : Nat) : Nat := min n (total - cnt)

/-- The two plane bits of a pair, first-read bit first (rule R117, decision D2, log 14). -/
def pairBits (p : Pair) : Bits := [p.getLsbD 1, p.getLsbD 0]

/-- `TOTAL = TW * TH * PAIRS_PER_TILE` (rules R32, R170). -/
def totalPairs (w h : BitVec 4) : BitVec 11 :=
  BitVec.ofNat 11 (w.toNat * h.toNat * Config.pairsPerTile)

/-- `PLACE(W, H)` (rule R23): the host's entry for the dimensions, else top-left. -/
def placeAt (p : Placement) (w h : Nat) : Offset :=
  (p.lookup (w, h)).getD ⟨0, 0⟩

/-- An offset keeps a `W` x `H` sprite on the canvas (rule R23). -/
def offsetFits (o : Offset) (w h : Nat) : Bool :=
  decide (o.ox + w ≤ Config.canvasTiles) && decide (o.oy + h ≤ Config.canvasTiles)

/-- `PLACE` keeps its bounds for every `(W, H)` in 1..7 x 1..7 (rule R23). -/
def placeAdmitted (p : Placement) : Bool :=
  (List.range Config.dimMax).all fun w =>
    (List.range Config.dimMax).all fun h => offsetFits (placeAt p (w + 1) (h + 1)) (w + 1) (h + 1)

/-- The launch inputs are in their domain: `BASE <= LEN` (rule R22) and an admitted `PLACE` (rule R23). -/
def launchAdmitted (l : Launch) : Bool :=
  decide (l.base ≤ l.input.length) && placeAdmitted l.place

/-- `MODE_TYPE(m, t)` (rule R24): the host's entry, else `t = 0` (log 7). -/
def modeType (c : ModeCfg) (m : BitVec 2) (t : Bit) : Bool :=
  (c.types.lookup (m, t)).getD (!t)

/-- `MODE_POST(m, P, S)` (rule R24): the default `(P, S)`, or the host's function, each of whose planes is
as long as the plane given (log 8). -/
def modePost (c : ModeCfg) (m : BitVec 2) (p s : Bits) : Bits × Bits :=
  match c.post with
  | .noEffect => (p, s)
  | .host id =>
    ((List.range p.length).map (Config.modePostBit id m p s false),
      (List.range s.length).map (Config.modePostBit id m p s true))

/-- The address of `CANVAS[y][x]` (20_memory.md rule R58, log 25). -/
def canvasAddr (y x : Nat) : Nat := Config.canvasSide * y + x

end Sys2Proof.Machine
end

