-- ==== Sys2Proof/Machine/Ops.lean ====
section
/-!
DEFINITION. The named operations over buffers and registers, `raise` (60_exceptions.md rule R210), the loss
of every value (10_state.md rule R46), and the one shape every stream element has: its context, its
exhaustion test, its advance of the cursor, its effect (00_scope.md rules R16, R17).
-/

namespace Sys2Proof.Machine

/-- The three outcomes of a step of this machine. -/
abbrev StepResult := Host.Outcome State Fault Refusal

/-- The answer of a function of the block called with arguments of its own: refused outside its domain
(93_implementation_defined.md U3, U12; log 6, log 18), else its value or the error it raises. -/
abbrev Answer (α : Type) := Except Refusal (Except DecodeError α)

/-! ### Buffers (20_memory.md rules R50, R54, R59) -/

/-- The element at `a`, `none` where it holds no value (rule R40). -/
def Memory.read {α : Type} (m : Memory α) (a : Nat) : Option α := m.lookup a

/-- The elements at `a`, `a + 1`, ... (`n` of them), `none` if one holds no value. -/
def Memory.readRange {α : Type} (m : Memory α) (a : Nat) : Nat → Option (List α)
  | 0 => some []
  | n + 1 =>
    match m.read a, Memory.readRange m (a + 1) n with
    | some v, some vs => some (v :: vs)
    | _, _ => none

/-- The cells of `vs` from address `a` up. -/
def Memory.cells {α : Type} (a : Nat) : List α → Memory α
  | [] => []
  | v :: vs => (a, v) :: Memory.cells (a + 1) vs

/-- Writes `vs` at `a`, `a + 1`, ... in increasing order; every other element stays. -/
def Memory.write {α : Type} (m : Memory α) (a : Nat) (vs : List α) : Memory α :=
  m.filter (fun c => decide (c.1 < a)) ++ Memory.cells a vs ++
    m.filter (fun c => decide (a + vs.length ≤ c.1))

/-- `n` elements from address `a` up are inside a buffer's 3136 elements (rule R50). -/
def inSpace (a n : Nat) : Bool := decide (a + n ≤ Config.maxPlaneBits)

/-! ### Registers -/

/-- `LEN` (rule R21). -/
def State.len (s : State) : Nat := s.launch.input.length

/-- The bits of `IN` from the cursor to `LEN`. -/
def State.remaining (s : State) : Bits := s.launch.input.drop s.cur

/-- `pc <- pc + n`. -/
def State.advance (n : Nat) (s : State) : State := { s with cur := s.cur + n }

/-- `PHASE <- p`. -/
def State.setPhase (p : Phase) (s : State) : State := { s with phase := p }

/-- `TH <- h ; TW <- w ; TOTAL <- t`. -/
def State.setDims (h w : BitVec 4) (t : BitVec 11) (s : State) : State :=
  { s with th := h, tw := w, total := t }

/-- `ORD <- f`. -/
def State.setOrd (f : Bit) (s : State) : State := { s with ord := f }

/-- `MODE <- m`. -/
def State.setMode (m : BitVec 2) (s : State) : State := { s with mode := m }

/-- `ISRUN <- b`. -/
def State.setIsRun (b : Bit) (s : State) : State := { s with isRun := b }

/-- `CNT <- c`. -/
def State.setCnt (c : BitVec 11) (s : State) : State := { s with cnt := c }

/-- `K`, `PV`, `RV`, `N` as `VarintDecode` leaves them (rule R101). -/
def State.setVarint (k pv rv n : Nat) (s : State) : State := { s with k := k, pv := pv, rv := rv, n := n }

/-- `PIX` at addresses 0 up `<- xs` (rule R145). -/
def State.writePix (xs : List Pixel) (s : State) : State := { s with pix := s.pix.write 0 xs }

/-- All of `CANVAS <- g`, row by row (rule R156). -/
def State.writeCanvas (g : List Pixel) (s : State) : State := { s with canvas := s.canvas.write 0 g }

/-- Plane bits from address `a` up into the plane buffer of the current phase (rules R115, R117). -/
def State.writePlane (a : Nat) (bs : Bits) (s : State) : State :=
  match s.phase with
  | .planeS => { s with planeS := s.planeS.write a bs }
  | _ => { s with planeP := s.planeP.write a bs }

/-! ### Losing every value, and the fault entry -/

/-- Every register but `PHASE` and `ERR` is left without a value, that is with a free one, and every buffer
element holds none (rules R46, R210; log 1). -/
def State.forget (s : State) : State :=
  { s with
    cur := Config.freeReg .cur s.fresh
    th := BitVec.ofNat 4 (Config.freeReg .th s.fresh)
    tw := BitVec.ofNat 4 (Config.freeReg .tw s.fresh)
    ord := (Config.freeReg .ord s.fresh).testBit 0
    mode := BitVec.ofNat 2 (Config.freeReg .mode s.fresh)
    isRun := (Config.freeReg .isRun s.fresh).testBit 0
    total := BitVec.ofNat 11 (Config.freeReg .total s.fresh)
    cnt := BitVec.ofNat 11 (Config.freeReg .cnt s.fresh)
    k := Config.freeReg .k s.fresh
    pv := Config.freeReg .pv s.fresh
    rv := Config.freeReg .rv s.fresh
    n := Config.freeReg .n s.fresh
    planeP := []
    planeS := []
    pix := []
    canvas := []
    fresh := s.fresh + 1 }

/-- `raise E` (rule R210): `ERR <- code(E)`, `PHASE <- FAULT`; nothing else holds a value afterwards. No
state is saved and no handler is entered. There is no return from it but START (rule R212). -/
def State.raise (e : DecodeError) (s : State) : State :=
  { s.forget with err := some e, phase := .fault }

/-- START with launch inputs `l` (rule R46): `pc <- BASE`, `ERR <- 0`, `PHASE <- HDR`, and every other
register and every buffer element holds no value again. -/
def State.start (l : Launch) (s : State) : State :=
  { s.forget with launch := l, cur := l.base, err := none, phase := .hdr }

/-! ### The shape of a stream element -/

/-- A stream element of context `c` and `n` bits (rules R16, R17, R72, R73): if `LEN` leaves fewer than `n`
bits it raises the context's exhaustion error and has no other effect (rules R203, R204, R209); else the
cursor advances by `n` and `effect` follows. A state that does not decode such an element gives it no
meaning (log 17). -/
def element (c : Ctx) (n : Nat) (effect : State → StepResult) (s : State) : StepResult :=
  if contextOf s = some c then
    if s.cur + n ≤ s.len then effect (s.advance n) else .next (s.raise c.exhaustion)
  else .refused .wrongContext

/-! ### Emitting pairs (41_packetstream.md rules R117, R122) -/

/-- `EmitPair` for each pair in turn (rule R117): the bits at `2 * CNT` up, `CNT` advanced. -/
def State.emit (ps : List Pair) (s : State) : State :=
  (s.writePlane (2 * s.cnt.toNat) (ps.flatMap pairBits)).setCnt (s.cnt + BitVec.ofNat 11 ps.length)

/-- The step that makes `CNT == TOTAL` ends the plane (rules R122, R173). -/
def State.completePlane (s : State) : State :=
  if planeComplete s then s.setPhase (phaseAfterPlane s.phase) else s

/-- Emits `ps`, sets `ISRUN`, and ends the plane if it is complete: what RUN and LIT share (rules R118,
R119). -/
def emitPairs (ps : List Pair) (isRun : Bit) (s : State) : StepResult :=
  if inSpace (2 * s.cnt.toNat) (2 * ps.length) then
    .next ((s.emit ps).setIsRun isRun).completePlane
  else .fault .noSuchElement

end Sys2Proof.Machine
end

