-- ==== Sys2Proof/Machine/Header.lean ====
section
/-!
DEFINITION. The header, flag and mode elements: DIM, ORD, PTP, MODE, PTS (44_sprite_decoder.md rules R170
to R175).
-/

namespace Sys2Proof.Machine

/-- After the header byte is read (rule R170): illegal dimensions raise `InvalidDimensions` (rule R202). -/
def latchDims (h w : BitVec 4) (s : State) : StepResult :=
  if dimsLegal h w then .next ((s.setDims h w (totalPairs w h)).setPhase .ordf)
  else .next (s.raise .invalidDimensions)

/-- DIM (rule R170). -/
def execDim (h w : BitVec 4) (s : State) : StepResult := element .hdr 8 (latchDims h w) s

/-- ORD (rule R171). -/
def execOrd (f : Bit) (s : State) : StepResult :=
  element .ordf 1 (fun s => .next ((s.setOrd f).setPhase .ptypeP)) s

/-- What PTP and PTS share (rules R172, R175): `ISRUN <- b ; CNT <- 0`, on to the plane phase `p`. -/
def beginPlane (b : Bit) (p : Phase) (s : State) : StepResult :=
  .next (((s.setIsRun b).setCnt 0).setPhase p)

/-- PTP (rule R172). -/
def execPtp (t : Bit) (s : State) : StepResult :=
  element .ptypeP 1 (beginPlane (startsWithRun t) .planeP) s

/-- After the mode bits are read (rule R174): 0 raises `ReservedMode` (rule R207), else `MODE <- m`. -/
def latchMode (m : BitVec 2) (s : State) : StepResult :=
  if m = 0 then .next (s.raise .reservedMode) else .next ((s.setMode m).setPhase .ptypeS)

/-- MODE.1 (rule R174). -/
def execMode1 (s : State) : StepResult := element .modef 2 (latchMode 1) s

/-- MODE.2 (rule R174). -/
def execMode2 (s : State) : StepResult := element .modef 2 (latchMode 2) s

/-- MODE.3 (rule R174). -/
def execMode3 (s : State) : StepResult := element .modef 2 (latchMode 3) s

/-- MODE.RSV (rules R83, R174, R207). -/
def execModeRsv (s : State) : StepResult := element .modef 2 (latchMode 0) s

/-- PTS (rule R175). -/
def execPts (t : Bit) (s : State) : StepResult :=
  element .ptypeS 1 (fun s => beginPlane (modeType s.launch.modeCfg s.mode t) .planeS s) s

end Sys2Proof.Machine
end

