-- ==== Sys2Proof/Machine/Literal.lean ====
section
/-!
DEFINITION. LIT and LEND, the elements of a literal packet (41_packetstream.md rules R119 to R122).
-/

namespace Sys2Proof.Machine

/-- LIT with pair value `p` (rule R119): the pair is emitted, `ISRUN` stays 0, the literal packet goes on. -/
def execLit (p : Pair) (s : State) : StepResult :=
  element .literal 2 (fun s => emitPairs [p] s.isRun s) s

/-- LIT.1 (rule R119). -/
def execLit1 (s : State) : StepResult := execLit 1 s

/-- LIT.2 (rule R119). -/
def execLit2 (s : State) : StepResult := execLit 2 s

/-- LIT.3 (rule R119). -/
def execLit3 (s : State) : StepResult := execLit 3 s

/-- LEND (rules R120, R121): the `00` is consumed and emits nothing; a RUN comes next. -/
def execLend (s : State) : StepResult :=
  element .literal 2 (fun s => .next (s.setIsRun isRunAfterLend)) s

end Sys2Proof.Machine
end

