-- ==== Sys2Proof/Machine/Run.lean ====
section
/-!
DEFINITION. RUN, the run packet: VarintDecode's registers (40_varint.md rule R101) and the run step
(41_packetstream.md rules R118, R122, R123).
-/

namespace Sys2Proof.Machine

/-- After a codeword with prefix length `k` and residual `v` is read (rule R118): `K`, `PV`, `RV`, `N`, then
`min(N, TOTAL - CNT)` zero-pairs, `ISRUN <- 0`, and the end of the plane when it is complete. -/
def emitRun (k v : Nat) (s : State) : StepResult :=
  let s := s.setVarint k (runPrefixValue k) v (runLength k v)
  emitPairs (List.replicate (runPairs s.n s.total.toNat s.cnt.toNat) 0) isRunAfterRun s

/-- RUN with prefix length `k` and residual `v`: `2k` bits, `MalformedVarint` when they run out, raised
before any pair is emitted (rules R103, R105, R118). -/
def execRun (k v : Nat) (s : State) : StepResult := element .run (2 * k) (emitRun k v) s

/-- RUN.k1 (rules R78, R118). -/
def execRunK1 (v : BitVec 1) (s : State) : StepResult := execRun 1 v.toNat s

/-- RUN.k2 (rules R78, R118). -/
def execRunK2 (v : BitVec 2) (s : State) : StepResult := execRun 2 v.toNat s

/-- RUN.k3 (rules R78, R118). -/
def execRunK3 (v : BitVec 3) (s : State) : StepResult := execRun 3 v.toNat s

/-- RUN.k4 (rules R78, R118). -/
def execRunK4 (v : BitVec 4) (s : State) : StepResult := execRun 4 v.toNat s

/-- RUN.k5 (rules R78, R118). -/
def execRunK5 (v : BitVec 5) (s : State) : StepResult := execRun 5 v.toNat s

/-- RUN.k6 (rules R78, R118). -/
def execRunK6 (v : BitVec 6) (s : State) : StepResult := execRun 6 v.toNat s

/-- RUN.k7 (rules R78, R118). -/
def execRunK7 (v : BitVec 7) (s : State) : StepResult := execRun 7 v.toNat s

/-- RUN.k8 (rules R78, R118). -/
def execRunK8 (v : BitVec 8) (s : State) : StepResult := execRun 8 v.toNat s

/-- RUN.k9 (rules R78, R118). -/
def execRunK9 (v : BitVec 9) (s : State) : StepResult := execRun 9 v.toNat s

/-- RUN.k10 (rules R78, R118). -/
def execRunK10 (v : BitVec 10) (s : State) : StepResult := execRun 10 v.toNat s

/-- RUN.k11 (rules R78, R118). -/
def execRunK11 (v : BitVec 11) (s : State) : StepResult := execRun 11 v.toNat s

/-- RUN.k12 (rules R78, R118). -/
def execRunK12 (v : BitVec 12) (s : State) : StepResult := execRun 12 v.toNat s

/-- RUN.k13 (rules R78, R118). -/
def execRunK13 (v : BitVec 13) (s : State) : StepResult := execRun 13 v.toNat s

/-- RUN.k14 (rules R78, R118). -/
def execRunK14 (v : BitVec 14) (s : State) : StepResult := execRun 14 v.toNat s

/-- RUN.k15 (rules R78, R118). -/
def execRunK15 (v : BitVec 15) (s : State) : StepResult := execRun 15 v.toNat s

/-- RUN.k16 (rules R78, R118). -/
def execRunK16 (v : BitVec 16) (s : State) : StepResult := execRun 16 v.toNat s

/-- RUN with prefix length `k` of 17 or more (rules R78, R89, R107). -/
def execRunLong (k v : Nat) (s : State) : StepResult := execRun k v s

end Sys2Proof.Machine
end

