-- ==== Sys2Proof/Machine/Dispatch.lean ====
section
/-!
DEFINITION. Every stream element to its meaning, one arm per constructor of `Instr`.
-/

namespace Sys2Proof.Machine

def exec (i : Instr) (s : State) : Host.Outcome State Fault Refusal :=
  match i with
  | .dim h w => Sys2Proof.Machine.execDim h w s
  | .ord f => Sys2Proof.Machine.execOrd f s
  | .ptp t => Sys2Proof.Machine.execPtp t s
  | .runK1 v => Sys2Proof.Machine.execRunK1 v s
  | .runK2 v => Sys2Proof.Machine.execRunK2 v s
  | .runK3 v => Sys2Proof.Machine.execRunK3 v s
  | .runK4 v => Sys2Proof.Machine.execRunK4 v s
  | .runK5 v => Sys2Proof.Machine.execRunK5 v s
  | .runK6 v => Sys2Proof.Machine.execRunK6 v s
  | .runK7 v => Sys2Proof.Machine.execRunK7 v s
  | .runK8 v => Sys2Proof.Machine.execRunK8 v s
  | .runK9 v => Sys2Proof.Machine.execRunK9 v s
  | .runK10 v => Sys2Proof.Machine.execRunK10 v s
  | .runK11 v => Sys2Proof.Machine.execRunK11 v s
  | .runK12 v => Sys2Proof.Machine.execRunK12 v s
  | .runK13 v => Sys2Proof.Machine.execRunK13 v s
  | .runK14 v => Sys2Proof.Machine.execRunK14 v s
  | .runK15 v => Sys2Proof.Machine.execRunK15 v s
  | .runK16 v => Sys2Proof.Machine.execRunK16 v s
  | .runLong k v => Sys2Proof.Machine.execRunLong k v s
  | .lit1 => Sys2Proof.Machine.execLit1 s
  | .lit2 => Sys2Proof.Machine.execLit2 s
  | .lit3 => Sys2Proof.Machine.execLit3 s
  | .lend => Sys2Proof.Machine.execLend s
  | .mode1 => Sys2Proof.Machine.execMode1 s
  | .mode2 => Sys2Proof.Machine.execMode2 s
  | .mode3 => Sys2Proof.Machine.execMode3 s
  | .modeRsv => Sys2Proof.Machine.execModeRsv s
  | .pts t => Sys2Proof.Machine.execPts t s

end Sys2Proof.Machine
end

