-- ==== Sys2Proof/Machine/Fetch.lean ====
section
/-!
DEFINITION. Fetching: which action the state enables (44_sprite_decoder.md rules R167, R168), the element at
the cursor (30_encoding.md rule R72), and the placing of a word of the opcode table there.
-/

namespace Sys2Proof.Machine

/-- What the state enables (rules R167, R168): an element, MERGE, ROUTE, or the host's START. -/
inductive Action where
  | element (c : Ctx)
  | merge
  | route
  | host
  | none
  deriving DecidableEq, Repr

/-- The table of rule R168. `none` is a plane phase whose plane is complete, which no run reaches. -/
def enabled (s : State) : Action :=
  match contextOf s with
  | some c => .element c
  | Option.none =>
    match s.phase with
    | .merge => .merge
    | .route => .route
    | .idle | .done | .fault => .host
    | .hdr | .ordf | .ptypeP | .planeP | .modef | .ptypeS | .planeS => .none

/-- The element at the cursor and the bits after it, or the error when `LEN` cuts it (rules R72, R85). -/
def fetch (c : Ctx) (s : State) : Except DecodeError (Instr × Bits) := decode c s.remaining

/-- `s` in the state that decodes elements of context `c` at its cursor, changed no more than that needs. A
plane element also needs `CNT < TOTAL`: where that does not hold, an empty plane of one tile. -/
def enterContext (c : Ctx) (s : State) : State :=
  match c with
  | .hdr => s.setPhase .hdr
  | .ordf => s.setPhase .ordf
  | .ptypeP => s.setPhase .ptypeP
  | .modef => s.setPhase .modef
  | .ptypeS => s.setPhase .ptypeS
  | .run | .literal =>
    let s := (s.setPhase .planeP).setIsRun (decide (c = .run))
    if s.cnt < s.total then s
    else { s with cnt := 0, total := BitVec.ofNat 11 Config.pairsPerTile }

/-- `IN` with `bits` at the cursor and `LEN` at their end; the bits before the cursor stay, missing ones are
zeros. -/
def placeBits (bits : Bits) (s : State) : State :=
  { s with launch := { s.launch with
      input := s.launch.input.take s.cur ++ List.replicate (s.cur - s.len) false ++ bits } }

/-- `s` with the word of the opcode table standing where `step` fetches next (log 19). -/
def placeTableWord (nbits w : Nat) (s : State) : State :=
  match tableContext nbits w with
  | Option.none => s
  | some (c, len) => placeBits (tableBits len w) (enterContext c s)

end Sys2Proof.Machine
end

