-- ==== Sys2Proof/Machine/Launch.lean ====
section
/-!
DEFINITION. START, the host's only action (44_sprite_decoder.md rule R166).
-/

namespace Sys2Proof.Machine

/-- START of the host's next launch (rules R46, R166), from `IDLE`, `DONE` or `FAULT`. With no launch to
start the machine waits for ever: no step is enabled (rule R167, log 5). A launch outside the domain of
the inputs is refused (rules R22, R23, log 6). -/
def execStart (s : State) : StepResult :=
  if stopped s then
    match s.pending with
    | [] => .fault .noStepEnabled
    | l :: rest =>
      if launchAdmitted l then .next ({ s with pending := rest }.start l)
      else .refused .launchNotAdmitted
  else .refused .wrongContext

end Sys2Proof.Machine
end

