-- ==== Sys2Proof/Machine/Merge.lean ====
section
/-!
DEFINITION. The plane merger (42_combiner.md): the function `Combine` and the MERGE step, which reads no bit
of `IN`.
-/

namespace Sys2Proof.Machine

/-- One pixel of `Combine` (rule R142): with `aIsLow` plane A gives bit 0, with `aIsHigh` it gives bit 1. -/
def mergePixel (order : Order) (a b : Bit) : Pixel :=
  match order with
  | .aIsLow => BitVec.ofNat 2 (a.toNat + 2 * b.toNat)
  | .aIsHigh => BitVec.ofNat 2 (2 * a.toNat + b.toNat)

/-- `Combine(A, B, order)` (rules R141, R142). -/
def combine (a b : Bits) (order : Order) : Except DecodeError (List Pixel) :=
  if a.length = b.length then .ok (List.zipWith (mergePixel order) a b)
  else .error .planeLengthMismatch

/-- The planes read and post-processed (rule R145): `PIX` written from address 0, on to `ROUTE`. -/
def mergePlanes (p t : Bits) (s : State) : StepResult :=
  match combine p t (orderOf s.ord) with
  | .error e => .next (s.raise e)
  | .ok xs =>
    if inSpace 0 xs.length then .next ((s.writePix xs).setPhase .route) else .fault .noSuchElement

/-- MERGE (rules R145, R176). The cursor stays. -/
def execMerge (s : State) : StepResult :=
  if s.phase = .merge then
    match s.planeP.readRange 0 (2 * s.total.toNat), s.planeS.readRange 0 (2 * s.total.toNat) with
    | some p, some t =>
      mergePlanes (modePost s.launch.modeCfg s.mode p t).1 (modePost s.launch.modeCfg s.mode p t).2 s
    | _, _ => .fault .noValue
  else .refused .wrongContext

end Sys2Proof.Machine
end

