-- ==== Sys2Proof/Machine/Route.lean ====
section
/-!
DEFINITION. The tile router (43_assembler.md): the function `Assemble` and the ROUTE step, which reads no bit
of `IN`.
-/

namespace Sys2Proof.Machine

/-- `W`, `H` and the offset are in the domain of `Assemble` (rules R152, R153). -/
def assembleDomain (w h : Nat) (o : Offset) : Bool :=
  decide (Config.dimMin ≤ w) && decide (w ≤ Config.dimMax) &&
    decide (Config.dimMin ≤ h) && decide (h ≤ Config.dimMax) && offsetFits o w h

/-- `G[y][x]` of rule R153. The tile coordinates are compared before the offset is taken off, so that no
subtraction is negative. -/
def gridPixel (pixels : List Pixel) (w h : Nat) (o : Offset) (y x : Nat) : Pixel :=
  let cx := x / Config.tile
  let cy := y / Config.tile
  if o.ox ≤ cx ∧ cx < o.ox + w ∧ o.oy ≤ cy ∧ cy < o.oy + h then
    pixels.getD (((cy - o.oy) * w + (cx - o.ox)) * Config.tilePixels +
      (y % Config.tile) * Config.tile + x % Config.tile) 0
  else 0

/-- The grid `G`, row by row: 3136 pixels (rules R39, R153, log 25). -/
def grid (pixels : List Pixel) (w h : Nat) (o : Offset) : List Pixel :=
  (List.range (Config.canvasSide * Config.canvasSide)).map fun a =>
    gridPixel pixels w h o (a / Config.canvasSide) (a % Config.canvasSide)

/-- `Assemble(pixels, W, H, OX, OY)` (rules R152, R153), whoever calls it: refused outside its domain
(93_implementation_defined.md U12), whatever the pixel count (log 18). -/
def assemble (pixels : List Pixel) (w h : Nat) (o : Offset) : Answer (List Pixel) :=
  if assembleDomain w h o then
    if pixels.length = w * h * Config.tilePixels then .ok (.ok (grid pixels w h o))
    else .ok (.error .pixelCountMismatch)
  else .error .outsideAssembleDomain

/-- The pixels read (rule R156): all of `CANVAS` written, on to `DONE`. -/
def routePixels (xs : List Pixel) (s : State) : StepResult :=
  match assemble xs s.tw.toNat s.th.toNat (placeAt s.launch.place s.tw.toNat s.th.toNat) with
  | .error r => .refused r
  | .ok (.error e) => .next (s.raise e)
  | .ok (.ok g) => .next ((s.writeCanvas g).setPhase .done)

/-- ROUTE (rules R156, R177). The cursor stays. -/
def execRoute (s : State) : StepResult :=
  if s.phase = .route then
    match s.pix.readRange 0 (s.tw.toNat * s.th.toNat * Config.tilePixels) with
    | some xs => routePixels xs s
    | none => .fault .noValue
  else .refused .wrongContext

end Sys2Proof.Machine
end

