-- ==== Sys2Proof/Machine/Step.lean ====
section
/-!
DEFINITION. One step of the sequencer (44_sprite_decoder.md rules R167, R168).
-/

namespace Sys2Proof.Machine

/-- One step: the stream element at the cursor, or MERGE, or ROUTE, or the host's START. An element that
`LEN` cuts is no instruction: it raises its exhaustion error (log 21). -/
def step (s : State) : Host.Outcome State Fault Refusal :=
  match enabled s with
  | .element c =>
    match fetch c s with
    | .ok (i, _) => exec i s
    | .error e => .next (s.raise e)
  | .merge => execMerge s
  | .route => execRoute s
  | .host => execStart s
  | .none => .fault .noStepEnabled

/-- `s` with the instruction `decodeTableWord nbits w` standing where `step` fetches next, so that the next
step runs it (log 4, log 19). -/
def State.withFetchWord (s : State) (nbits w : Nat) : State := placeTableWord nbits w s

end Sys2Proof.Machine
end

