-- ==== Sys2Proof/Machine/BigStep.lean ====
section
/-!
DEFINITION. The block's functions in one go: `DecodePlane` (41_packetstream.md rule R116) and `DecodeSprite`
(44_sprite_decoder.md rule R181). `step` gives the same results one element at a time (rule R17); the
component functions also serve a caller with the sizes from elsewhere (rule R182).
-/

namespace Sys2Proof.Machine

/-- The pairs of a literal or run packet joined to those of the packets after it. -/
def prependPairs (ps : List Pair) (r : Except DecodeError (List Pair × Bits)) :
    Except DecodeError (List Pair × Bits) :=
  match r with
  | .error e => .error e
  | .ok (qs, rest) => .ok (ps ++ qs, rest)

/-- The loops of rule R116, one element a turn, with `need = TOTAL - CNT` pairs still to come. `fuel` bounds
the turns; every element takes two bits or more, so more fuel than bits never runs out (rule R130). -/
def decodePlaneLoop : Nat → Nat → Bool → Bits → Except DecodeError (List Pair × Bits)
  | _, 0, _, bits => .ok ([], bits)
  | 0, _ + 1, _, _ => .error .cursorExhausted
  | fuel + 1, need + 1, true, bits =>
    match varintDecode bits with
    | .error e => .error e
    | .ok (r, rest) =>
      prependPairs (List.replicate (runPairs r.n (need + 1) 0) 0)
        (decodePlaneLoop fuel (need + 1 - runPairs r.n (need + 1) 0) false rest)
  | fuel + 1, need + 1, false, bits =>
    match readField 2 bits with
    | .error e => .error e
    | .ok (0, rest) => decodePlaneLoop fuel (need + 1) true rest
    | .ok (p, rest) => prependPairs [BitVec.ofNat 2 p] (decodePlaneLoop fuel need false rest)

/-- `DecodePlane(TOTAL, startsWithRun)` (rules R115, R116): the pairs of one plane and the bits after it. -/
def decodePlane (total : Nat) (startsWithRun : Bool) (bits : Bits) :
    Except DecodeError (List Pair × Bits) :=
  decodePlaneLoop (bits.length + 1) total startsWithRun bits

/-- The sizes and the order flag at the head of a sprite (rule R181): `H`, `W`, `ORD`, and the bits after. -/
def decodeHeader (bits : Bits) : Except DecodeError (BitVec 4 × BitVec 4 × Bit × Bits) := do
  let (b, bits) ← readField 8 bits
  if dimsLegal (BitVec.ofNat 4 (b / 16)) (BitVec.ofNat 4 b) then
    let (f, bits) ← readField 1 bits
    .ok (BitVec.ofNat 4 (b / 16), BitVec.ofNat 4 b, f.testBit 0, bits)
  else .error .invalidDimensions

/-- The mode field (rule R181). -/
def decodeMode (bits : Bits) : Except DecodeError (BitVec 2 × Bits) := do
  let (m, bits) ← readField 2 bits
  if m = 0 then .error .reservedMode else .ok (BitVec.ofNat 2 m, bits)

/-- `DecodeSprite` up to its last line (rule R181): the pixels `X`, `W` and `H`, or the first error. -/
def decodePixels (l : Launch) : Except DecodeError (List Pixel × BitVec 4 × BitVec 4) := do
  let (h, w, ord, bits) ← decodeHeader (l.input.drop l.base)
  let (t, bits) ← readField 1 bits
  let (p, bits) ← decodePlane (w.toNat * h.toNat * Config.pairsPerTile) (startsWithRun (t.testBit 0)) bits
  let (m, bits) ← decodeMode bits
  let (t, bits) ← readField 1 bits
  let (q, _) ← decodePlane (w.toNat * h.toNat * Config.pairsPerTile)
    (modeType l.modeCfg m (t.testBit 0)) bits
  let planes := modePost l.modeCfg m (p.flatMap pairBits) (q.flatMap pairBits)
  let xs ← combine planes.1 planes.2 (orderOf ord)
  .ok (xs, w, h)

/-- `DecodeSprite(IN, LEN, BASE, PLACE, MODECFG)` (rule R181): the grid, row by row, or the first error. On a
launch that is not admitted (`BASE > LEN`, or a `PLACE` that leaves the canvas: rules R22, R23) the spec
gives the function no value; DESIGN CHOICE (log 6), safe: it is refused, as START of that launch is. -/
def decodeSprite (l : Launch) : Answer (List Pixel) :=
  if launchAdmitted l then
    match decodePixels l with
    | .error e => .ok (.error e)
    | .ok (xs, w, h) => assemble xs w.toNat h.toNat (placeAt l.place w.toNat h.toNat)
  else .error .launchNotAdmitted

end Sys2Proof.Machine
end

