-- ==== Sys2Proof/Machine/HostView.lean ====
section
/-!
DEFINITION. What the host can read of the block, and when (10_state.md rules R35, R42), and the result it reads.
-/

namespace Sys2Proof.Machine

/-- The reads of the host interface (rule R42). `PLANE_P`, `PLANE_S`, `PIX`, `ISRUN`, `CNT`, `TOTAL`, `K`, `PV`,
`RV` and `N` are internal: the host has no read of them. -/
inductive HostRead where
  | status
  | canvas (y x : Nat)
  | th
  | tw
  | ord
  | mode
  | cur
  deriving DecidableEq, Repr

/-- When a read is there: everything at `DONE`; at `FAULT`, and before the end of a launch, `STATUS` alone
(rule R42, 20_memory.md rule R64; log 30). -/
def visible (r : HostRead) (s : State) : Bool :=
  match r with
  | .status => true
  | .canvas _ _ | .th | .tw | .ord | .mode | .cur => decide (s.phase = .done)

/-- What a read finds in the state. A `CANVAS` element has a row and a column in 0..55 (rule R39). -/
def readValue (r : HostRead) (s : State) : Option Nat :=
  match r with
  | .status => some (status s).toNat
  | .canvas y x =>
    if y < Config.canvasSide ∧ x < Config.canvasSide then (s.canvas.read (canvasAddr y x)).map BitVec.toNat
    else none
  | .th => some s.th.toNat
  | .tw => some s.tw.toNat
  | .ord => some s.ord.toNat
  | .mode => some s.mode.toNat
  | .cur => some s.cur

/-- A read of the host (rule R42): `none` where the host interface has no such read, whatever the state holds. -/
def hostRead (r : HostRead) (s : State) : Option Nat := if visible r s then readValue r s else none

/-- The result the host reads (rule R35): the grid at `DONE`, the error at `FAULT`, nothing before. -/
def result (s : State) : Option (Except DecodeError (List Pixel)) :=
  match s.phase, s.err with
  | .done, _ => (s.canvas.readRange 0 (Config.canvasSide * Config.canvasSide)).map .ok
  | .fault, some e => some (.error e)
  | _, _ => none

end Sys2Proof.Machine
end

