-- ==== Sys2Proof/Safety.lean ====
section
/-!
DEFINITION. The terms claims are stated in: runs of many steps, the domain of the launch inputs, the order of
the phases (44_sprite_decoder.md rule R168), and the invariant `Inv` that power-on has and every step keeps.
-/

namespace Sys2Proof.Machine

/-- `n` steps, stopping at the first that gives no next state. -/
def run : Nat → State → StepResult
  | 0, s => .next s
  | n + 1, s =>
    match step s with
    | .next t => run n t
    | .fault r => .fault r
    | .refused r => .refused r

/-- `s` with other bits in `IN`. -/
def State.withInput (input : Bits) (s : State) : State :=
  { s with launch := { s.launch with input := input } }

/-- The domain of the launch inputs (10_state.md rules R22, R23): `BASE <= LEN`, and a placement that keeps every
sprite on the canvas. -/
def inDomain (l : Launch) : Prop :=
  l.base ≤ l.input.length ∧ ∀ w h : Nat, 1 ≤ w → w ≤ 7 → 1 ≤ h → h ≤ 7 →
    (placeAt l.place w h).ox + w ≤ 7 ∧ (placeAt l.place w h).oy + h ≤ 7

/-- The phase a successful step of rule R168's table leads to; a plane phase also stays. -/
def followsPhase (p q : Phase) : Bool :=
  match p, q with
  | .hdr, .ordf | .ordf, .ptypeP | .ptypeP, .planeP => true
  | .planeP, .planeP | .planeP, .modef => true
  | .modef, .ptypeS | .ptypeS, .planeS => true
  | .planeS, .planeS | .planeS, .merge => true
  | .merge, .route | .route, .done => true
  | _, _ => false

/-- Phases in which a launch runs: `HDR` to `ROUTE`. -/
def running (s : State) : Bool := !stopped s

/-- Phases in which the header holds legal values: after DIM up to `DONE`. -/
def headerRead : Phase → Bool
  | .idle | .hdr | .fault => false
  | .ordf | .ptypeP | .planeP | .modef | .ptypeS | .planeS | .merge | .route | .done => true

/-- Phases in which `MODE` holds a legal value: after MODE up to `DONE`. -/
def modeRead : Phase → Bool
  | .ptypeS | .planeS | .merge | .route | .done => true
  | .idle | .hdr | .ordf | .ptypeP | .planeP | .modef | .fault => false

/-- How many elements of `PLANE_P` hold a value. -/
def filledP (s : State) : Nat :=
  match s.phase with
  | .planeP => 2 * s.cnt.toNat
  | .modef | .ptypeS | .planeS | .merge | .route | .done => 2 * s.total.toNat
  | .idle | .hdr | .ordf | .ptypeP | .fault => 0

/-- How many elements of `PLANE_S` hold a value. -/
def filledS (s : State) : Nat :=
  match s.phase with
  | .planeS => 2 * s.cnt.toNat
  | .merge | .route | .done => 2 * s.total.toNat
  | .idle | .hdr | .ordf | .ptypeP | .planeP | .modef | .ptypeS | .fault => 0

/-- How many elements of `PIX` hold a value. -/
def filledPix (s : State) : Nat :=
  match s.phase with
  | .route | .done => 2 * s.total.toNat
  | _ => 0

/-- How many elements of `CANVAS` hold a value. -/
def filledCanvas (s : State) : Nat :=
  match s.phase with
  | .done => Config.canvasSide * Config.canvasSide
  | _ => 0

/-- The invariant of the block: what 10_state.md rules R26 to R40 and 20_memory.md rule R59 say of each piece
of state in each phase. `fault` and `idle` leave the registers unconstrained (rules R45, R210). -/
structure Inv (s : State) : Prop where
  /-- `ERR` is set in `FAULT` and nowhere else (rules R34, R211). -/
  err : s.err.isSome ↔ s.phase = .fault
  /-- The launch that runs, or ended well, is admitted (rules R22, R23). -/
  launch : s.phase ≠ .idle → s.phase ≠ .fault → launchAdmitted s.launch = true
  /-- `BASE <= CUR <= LEN` (rule R26). -/
  cur : s.phase ≠ .idle → s.phase ≠ .fault → s.launch.base ≤ s.cur ∧ s.cur ≤ s.len
  /-- `TH` and `TW` are in 1..7 and `TOTAL = TW * TH * 32` (rules R28, R32). -/
  header : headerRead s.phase → dimsLegal s.th s.tw = true ∧
    s.total.toNat = s.tw.toNat * s.th.toNat * Config.pairsPerTile
  /-- `MODE` is never 0 once read (rule R30). -/
  mode : modeRead s.phase → s.mode ≠ 0
  /-- A plane phase still needs pairs (rules R33, R122). -/
  plane : s.phase = .planeP ∨ s.phase = .planeS → s.cnt < s.total
  /-- The elements that hold a value are those the rules wrote, in order (rules R37, R40, R59). -/
  planeP : s.planeP.map Prod.fst = List.range (filledP s)
  planeS : s.planeS.map Prod.fst = List.range (filledS s)
  pix : s.pix.map Prod.fst = List.range (filledPix s)
  canvas : s.canvas.map Prod.fst = List.range (filledCanvas s)

/-- The canonical form of the four buffers. -/
def buffersWf (s : State) : Prop :=
  s.planeP.wf ∧ s.planeS.wf ∧ s.pix.wf ∧ s.canvas.wf

end Sys2Proof.Machine
end

