-- ==== Sys2Proof/Certificates/Slice0/Obligations.lean ====
section
/-!
DEFINITION. The statements for the provers. Each docstring names the rule or section of spec/ it formalises.
-/

open Sys2Proof Sys2Proof.Machine

/-! ### Power-on and START -/

/-- 10_state.md section 8: power-on leaves `PHASE = IDLE`, `ERR = 0` and no value in any buffer element. That
the machine then waits for the host is the model's choice (log 5). -/
def Obligations.PowerOnIsIdle : Prop :=
  State.reset.phase = .idle ∧ State.reset.err = none ∧
    (∀ a, State.reset.planeP.read a = none ∧ State.reset.planeS.read a = none ∧
      State.reset.pix.read a = none ∧ State.reset.canvas.read a = none) ∧
    step State.reset = .fault .noStepEnabled

/-- 10_state.md section 8 and 44_sprite_decoder.md section 1: START from `IDLE`, `DONE` or `FAULT` sets `pc` to
`BASE`, `ERR` to 0, `PHASE` to `HDR`, and leaves no buffer element with a value. The registers then hold
free values (log 1), so nothing is said of them. -/
def Obligations.StartBeginsTheLaunch : Prop :=
  ∀ (s : State) (l : Launch) (rest : List Launch),
    stopped s = true → s.pending = l :: rest → launchAdmitted l = true →
      ∃ t, step s = .next t ∧ t.cur = l.base ∧ t.err = none ∧ t.phase = .hdr ∧
        t.launch = l ∧ t.pending = rest ∧
        ∀ a, t.planeP.read a = none ∧ t.planeS.read a = none ∧ t.pix.read a = none ∧ t.canvas.read a = none

/-- 10_state.md section 2 and 93_implementation_defined.md U3; the refusal is the model's choice (log 6): START
goes ahead exactly for a launch with `BASE <= LEN` whose placement keeps every sprite on the canvas. -/
def Obligations.StartRefusesInputsOutsideTheDomain : Prop :=
  ∀ (s : State) (l : Launch) (rest : List Launch), stopped s = true → s.pending = l :: rest →
    (step s = .refused .launchNotAdmitted ↔
      ¬ (l.base ≤ l.input.length ∧
        ∀ w h : Nat, 1 ≤ w → w ≤ 7 → 1 ≤ h → h ≤ 7 →
          (placeAt l.place w h).ox + w ≤ 7 ∧ (placeAt l.place w h).oy + h ≤ 7))

/-! ### Decoding and encoding -/

/-- 30_encoding.md sections 2 and 3: the decoder reads back every well-formed element from its encoding,
whatever bits follow. -/
def Obligations.DecodeOfEncodeIsTheElement : Prop :=
  ∀ (i : Instr) (rest : Bits), i.wellFormed = true → decode i.ctx (encode i ++ rest) = .ok (i, rest)

/-- 30_encoding.md sections 2 and 3: what the decoder answers is a well-formed element of the context asked for,
and the bits it took are exactly that element's encoding. -/
def Obligations.EncodeOfDecodeIsTheBits : Prop :=
  ∀ (c : Ctx) (bits rest : Bits) (i : Instr), decode c bits = .ok (i, rest) →
    i.wellFormed = true ∧ i.ctx = c ∧ bits = encode i ++ rest ∧ (encode i).length = i.length

/-- 30_encoding.md section 3: words of the eight elements, written out bit by bit from their patterns. -/
def Obligations.PatternsDecodeToTheirElements : Prop :=
  decode .hdr [false, true, true, true, false, true, false, true] = .ok (.dim 7 5, []) ∧
  decode .ordf [true] = .ok (.ord true, []) ∧
  decode .ptypeP [false] = .ok (.ptp false, []) ∧
  decode .run [true, true, true, true, false, false, true, true, true, false] = .ok (.runK5 14, []) ∧
  decode .run [false, false] = .ok (.runK1 0, []) ∧
  decode .literal [true, false] = .ok (.lit2, []) ∧
  decode .literal [false, false] = .ok (.lend, []) ∧
  decode .modef [false, true] = .ok (.mode1, []) ∧
  decode .modef [false, false] = .ok (.modeRsv, []) ∧
  decode .ptypeS [true] = .ok (.pts true, [])

/-- 30_encoding.md section 2, 44_sprite_decoder.md section 1: where the bits at the cursor decode to an element,
`step` is `exec` of that element; it adds nothing around it. -/
def Obligations.StepRunsTheDecodedElement : Prop :=
  ∀ (s : State) (c : Ctx) (i : Instr) (rest : Bits),
    contextOf s = some c → decode c s.remaining = .ok (i, rest) → step s = exec i s

/-- Rule R203: a fixed-length element raises `CursorExhausted` exactly when its field passes `LEN`: where the whole
field is there, some element of the context runs and the step raises no `CursorExhausted`. -/
def Obligations.ShortFieldRaisesCursorExhausted : Prop :=
  ∀ (s : State) (c : Ctx) (n : Nat),
    (c, n) ∈ [(Ctx.hdr, 8), (.ordf, 1), (.ptypeP, 1), (.ptypeS, 1), (.literal, 2), (.modef, 2)] →
    contextOf s = some c →
      (s.len < s.cur + n → step s = .next (s.raise .cursorExhausted)) ∧
      (s.cur + n ≤ s.len → (∃ i, i.ctx = c ∧ step s = exec i s) ∧
        ∀ t, step s = .next t → ¬ (t.phase = .fault ∧ t.err = some .cursorExhausted))

/-- Rule R105: exhaustion inside a RUN is `MalformedVarint`, in exactly two cases; any other bits are a legal
codeword, and the step raises no error. -/
def Obligations.ShortCodewordRaisesMalformedVarint : Prop :=
  ∀ s : State, contextOf s = some .run →
    (∀ m, s.remaining = List.replicate m true → step s = .next (s.raise .malformedVarint)) ∧
    (∀ k r, 1 ≤ k → s.remaining = List.replicate (k - 1) true ++ false :: r → r.length < k →
      step s = .next (s.raise .malformedVarint)) ∧
    (∀ k r, 1 ≤ k → s.remaining = List.replicate (k - 1) true ++ false :: r → k ≤ r.length →
      (∃ i v, i.runFields = some (k, v) ∧ step s = exec i s) ∧ ∀ t, step s = .next t → t.phase ≠ .fault)

/-! ### The varint unit -/

/-- 40_varint.md section 2: the registers `VarintDecode` leaves, in closed form: `n = 2^k + v - 1`. -/
def Obligations.VarintClosedForm : Prop :=
  ∀ (k v : Nat) (rest : Bits), 1 ≤ k → v < 2 ^ k →
    varintDecode (List.replicate (k - 1) true ++ false :: (bitsOf k v ++ rest)) =
      .ok (⟨k, 2 ^ k - 2, v, 2 ^ k + v - 1⟩, rest)

/-- Rule R103: a codeword's length is `2K`, and the cursor passes exactly that many bits. -/
def Obligations.VarintTakesTwiceKBits : Prop :=
  ∀ (bits rest : Bits) (r : Varint), varintDecode bits = .ok (r, rest) →
    1 ≤ r.k ∧ 2 * r.k ≤ bits.length ∧ rest = bits.drop (2 * r.k)

/-- Rule R104: the varint unit reads no bit beyond the `2K` it consumes: replacing what follows, also by nothing,
changes no result. With MPR's example of 45 and six bits of garbage. -/
def Obligations.VarintIgnoresTrailingBits : Prop :=
  (∀ (bits rest tail : Bits) (r : Varint), varintDecode bits = .ok (r, rest) →
    varintDecode (bits.take (2 * r.k) ++ tail) = .ok (r, tail)) ∧
  ∃ r, varintDecode ([true, true, true, true, false, false, true, true, true, false] ++
      [true, true, true, true, true, true]) = .ok (r, [true, true, true, true, true, true]) ∧ r.n = 45

/-- 40_varint.md section 3 and 30_encoding.md section 5: `encode(n)` and `VarintDecode` are inverse to each
other, both ways. -/
def Obligations.VarintAndEncoderAreInverse : Prop :=
  (∀ (n : Nat) (t : Bits), 1 ≤ n → ∃ r, varintDecode (encodeRunLength n ++ t) = .ok (r, t) ∧ r.n = n) ∧
  (∀ (bits rest : Bits) (r : Varint), varintDecode bits = .ok (r, rest) →
    1 ≤ r.n ∧ bits = encodeRunLength r.n ++ rest)

/-! ### What each element does -/

/-- Rule R170: DIM in phase `HDR`. -/
def Obligations.DimLatchesTheDimensions : Prop :=
  ∀ (h w : BitVec 4) (s : State), s.phase = .hdr →
    (s.cur + 8 ≤ s.len → 1 ≤ h.toNat → h.toNat ≤ 7 → 1 ≤ w.toNat → w.toNat ≤ 7 →
      exec (.dim h w) s = .next { s with
        cur := s.cur + 8, th := h, tw := w, phase := .ordf,
        total := BitVec.ofNat 11 (w.toNat * h.toNat * 32) } ∧
      (BitVec.ofNat 11 (w.toNat * h.toNat * 32)).toNat = w.toNat * h.toNat * 32) ∧
    (s.cur + 8 ≤ s.len → h.toNat < 1 ∨ 7 < h.toNat ∨ w.toNat < 1 ∨ 7 < w.toNat →
      ∃ t, exec (.dim h w) s = .next t ∧ t.phase = .fault ∧ t.err = some .invalidDimensions) ∧
    (s.len < s.cur + 8 →
      ∃ t, exec (.dim h w) s = .next t ∧ t.phase = .fault ∧ t.err = some .cursorExhausted)

/-- Rule R171: ORD in phase `ORDF`. -/
def Obligations.OrdLatchesTheFlag : Prop :=
  ∀ (f : Bit) (s : State), s.phase = .ordf →
    (s.cur + 1 ≤ s.len →
      exec (.ord f) s = .next { s with cur := s.cur + 1, ord := f, phase := .ptypeP }) ∧
    (s.len < s.cur + 1 →
      ∃ t, exec (.ord f) s = .next t ∧ t.phase = .fault ∧ t.err = some .cursorExhausted)

/-- Rule R172: PTP in phase `PTYPE_P`; with `TOTAL >= 32` the primary plane then decodes an element, a RUN when
`t = 0`. -/
def Obligations.PtpBeginsThePrimaryPlane : Prop :=
  ∀ (t : Bit) (s : State), s.phase = .ptypeP →
    (s.cur + 1 ≤ s.len →
      exec (.ptp t) s =
        .next { s with cur := s.cur + 1, isRun := (t == false), cnt := 0, phase := .planeP } ∧
      (32 ≤ s.total.toNat → contextOf { s with
        cur := s.cur + 1, isRun := (t == false), cnt := 0, phase := .planeP } =
          some (if t then .literal else .run))) ∧
    (s.len < s.cur + 1 →
      ∃ u, exec (.ptp t) s = .next u ∧ u.phase = .fault ∧ u.err = some .cursorExhausted)

/-- 44_sprite_decoder.md section 2: PTS in phase `PTYPE_S`; `ISRUN` is what the launch's `MODE_TYPE` gives, and
the default `MODE_TYPE` is `t = 0` (the spec's decision D7, log 7). -/
def Obligations.PtsBeginsTheSecondaryPlane : Prop :=
  (∀ (t : Bit) (s : State), s.phase = .ptypeS → s.cur + 1 ≤ s.len →
    exec (.pts t) s = .next { s with
      cur := s.cur + 1, isRun := modeType s.launch.modeCfg s.mode t, cnt := 0, phase := .planeS }) ∧
  ∀ (m : BitVec 2) (t : Bit) (post : ModePost), modeType ⟨[], post⟩ m t = (t == false)

/-- 44_sprite_decoder.md section 2: MODE.1, MODE.2 and MODE.3 latch their value. -/
def Obligations.ModeLatchesTheMode : Prop :=
  ∀ (i : Instr) (m : BitVec 2) (s : State), (i, m) ∈ [(Instr.mode1, 1#2), (.mode2, 2#2), (.mode3, 3#2)] →
    s.phase = .modef → s.cur + 2 ≤ s.len →
      exec i s = .next { s with cur := s.cur + 2, mode := m, phase := .ptypeS }

/-- 44_sprite_decoder.md section 2 and the spec's decision D6: MODE.RSV raises `ReservedMode` when its two bits
are there, `CursorExhausted` when not (60_exceptions.md section 2). -/
def Obligations.ReservedModeRaises : Prop :=
  ∀ s : State, s.phase = .modef →
    ∃ t, exec .modeRsv s = .next t ∧ t.phase = .fault ∧
      t.err = some (if s.cur + 2 ≤ s.len then .reservedMode else .cursorExhausted)

/-- Rule R118: RUN, in every form (`runK1` to `runK16`, and `runLong`): the element with prefix length `k` and
residual `v` means `n = 2^k + v - 1`, emits `min(n, TOTAL - CNT)` zero-pairs (one or more) into the plane
buffer of the phase, and ends the plane when it is complete; cut by `LEN` it raises `MalformedVarint`. The
premise on `TOTAL` holds in every state with the invariant (`EveryStepKeepsTheInvariant`). -/
def Obligations.RunEmitsItsZeroPairs : Prop :=
  ∀ (i : Instr) (k v m : Nat) (s : State), i.runFields = some (k, v) → i.wellFormed = true →
    s.phase = .planeP ∨ s.phase = .planeS → s.isRun = true → s.cnt < s.total → s.total.toNat ≤ 1568 →
    m = min (2 ^ k + v - 1) (s.total.toNat - s.cnt.toNat) → 1 ≤ m ∧
      (s.cur + 2 * k ≤ s.len → exec i s = .next { s with
        cur := s.cur + 2 * k
        k := k, pv := 2 ^ k - 2, rv := v, n := 2 ^ k + v - 1
        isRun := false
        cnt := BitVec.ofNat 11 (s.cnt.toNat + m)
        planeP := if s.phase = .planeP then s.planeP.write (2 * s.cnt.toNat) (List.replicate (2 * m) false)
          else s.planeP
        planeS := if s.phase = .planeS then s.planeS.write (2 * s.cnt.toNat) (List.replicate (2 * m) false)
          else s.planeS
        phase := if s.cnt.toNat + m = s.total.toNat then (if s.phase = .planeP then .modef else .merge)
          else s.phase }) ∧
      (s.len < s.cur + 2 * k →
        ∃ t, exec i s = .next t ∧ t.phase = .fault ∧ t.err = some .malformedVarint)

/-- Rule R119: LIT.1, LIT.2, LIT.3 emit their pair, first-read bit at the lower address; cut by `LEN` they raise
`CursorExhausted`. -/
def Obligations.LitEmitsItsPair : Prop :=
  ∀ (i : Instr) (b1 b0 : Bit) (s : State),
    (i, b1, b0) ∈ [(Instr.lit1, false, true), (.lit2, true, false), (.lit3, true, true)] →
    s.phase = .planeP ∨ s.phase = .planeS → s.isRun = false → s.cnt < s.total → s.total.toNat ≤ 1568 →
      (s.cur + 2 ≤ s.len → exec i s = .next { s with
        cur := s.cur + 2
        cnt := BitVec.ofNat 11 (s.cnt.toNat + 1)
        planeP := if s.phase = .planeP then s.planeP.write (2 * s.cnt.toNat) [b1, b0] else s.planeP
        planeS := if s.phase = .planeS then s.planeS.write (2 * s.cnt.toNat) [b1, b0] else s.planeS
        phase := if s.cnt.toNat + 1 = s.total.toNat then (if s.phase = .planeP then .modef else .merge)
          else s.phase }) ∧
      (s.len < s.cur + 2 →
        ∃ t, exec i s = .next t ∧ t.phase = .fault ∧ t.err = some .cursorExhausted)

/-- Rule R120: LEND consumes its two bits, emits nothing and makes the next element a RUN; cut by `LEN` it raises
`CursorExhausted`. -/
def Obligations.LendEndsTheLiteralPacket : Prop :=
  ∀ s : State, s.phase = .planeP ∨ s.phase = .planeS → s.isRun = false → s.cnt < s.total →
    (s.cur + 2 ≤ s.len → exec .lend s = .next { s with cur := s.cur + 2, isRun := true } ∧
      contextOf { s with cur := s.cur + 2, isRun := true } = some .run) ∧
    (s.len < s.cur + 2 →
      ∃ t, exec .lend s = .next t ∧ t.phase = .fault ∧ t.err = some .cursorExhausted)

/-- Rule R80: the bits `00` at the cursor of a plane are a LEND where a literal packet is being read, which stores
nothing, and the RUN codeword for 1 where a run is expected. -/
def Obligations.ZeroPairDependsOnIsRun : Prop :=
  ∀ (s : State) (rest : Bits), s.remaining = false :: false :: rest →
    s.phase = .planeP ∨ s.phase = .planeS → s.cnt < s.total →
      (s.isRun = false → step s = exec .lend s ∧
        step s = .next { s with cur := s.cur + 2, isRun := true }) ∧
      (s.isRun = true → step s = exec (.runK1 0) s ∧
        ∃ r, varintDecode s.remaining = .ok (r, rest) ∧ r.n = 1)

/-! ### Frames -/

/-- The registers an element of a plane does not write (41_packetstream.md section 2): RUN in every form, LIT and
LEND leave them as they are, leave the other plane buffer, `PIX` and `CANVAS` alone, and store to no plane
bit but those from `2 * CNT` up to twice the new `CNT`. -/
def Obligations.PlaneElementsStoreOnlyTheirPairs : Prop :=
  ∀ (i : Instr) (s t : State), i.ctx = .run ∨ i.ctx = .literal → exec i s = .next t → t.phase ≠ .fault →
    t.th = s.th ∧ t.tw = s.tw ∧ t.ord = s.ord ∧ t.mode = s.mode ∧ t.total = s.total ∧ t.err = s.err ∧
    t.launch = s.launch ∧ t.pending = s.pending ∧
    (i.ctx = .literal → t.k = s.k ∧ t.pv = s.pv ∧ t.rv = s.rv ∧ t.n = s.n) ∧
    (∀ a, t.pix.read a = s.pix.read a ∧ t.canvas.read a = s.canvas.read a) ∧
    (s.phase = .planeP → ∀ a, t.planeS.read a = s.planeS.read a) ∧
    (s.phase = .planeS → ∀ a, t.planeP.read a = s.planeP.read a) ∧
    ∀ a, a < 2 * s.cnt.toNat ∨ 2 * t.cnt.toNat ≤ a →
      t.planeP.read a = s.planeP.read a ∧ t.planeS.read a = s.planeS.read a

/-- The header, flag and mode elements store to no buffer element, and each writes only the registers its rule
names (44_sprite_decoder.md section 2). -/
def Obligations.HeaderElementsStoreNothing : Prop :=
  ∀ (i : Instr) (s t : State), i.ctx ≠ .run → i.ctx ≠ .literal → exec i s = .next t → t.phase ≠ .fault →
    (∀ a, t.planeP.read a = s.planeP.read a ∧ t.planeS.read a = s.planeS.read a ∧
      t.pix.read a = s.pix.read a ∧ t.canvas.read a = s.canvas.read a) ∧
    t.k = s.k ∧ t.pv = s.pv ∧ t.rv = s.rv ∧ t.n = s.n ∧ t.err = s.err ∧
    t.launch = s.launch ∧ t.pending = s.pending ∧
    (i.ctx ≠ .hdr → t.th = s.th ∧ t.tw = s.tw ∧ t.total = s.total) ∧
    (i.ctx ≠ .ordf → t.ord = s.ord) ∧
    (i.ctx ≠ .modef → t.mode = s.mode) ∧
    (i.ctx ≠ .ptypeP → i.ctx ≠ .ptypeS → t.isRun = s.isRun ∧ t.cnt = s.cnt)

/-- 20_memory.md section 3: no step of a launch writes `IN` or another launch input, and no step of a launch
takes a START. -/
def Obligations.LaunchInputsAreNeverWritten : Prop :=
  ∀ s t : State, stopped s = false → step s = .next t → t.launch = s.launch ∧ t.pending = s.pending

/-! ### The merger and the router -/

/-- Rule R141: `Combine` on planes of unequal length raises `PlaneLengthMismatch`. Rule R142: on equal ones
pixel `i` is made of `A[i]` and `B[i]` alone, plane A in bit 0 with `A_is_low`, in bit 1 with `A_is_high`. -/
def Obligations.CombineMergesBitByBit : Prop :=
  (∀ (a b : Bits) (o : Order), a.length ≠ b.length → combine a b o = .error .planeLengthMismatch) ∧
  ∀ (a b : Bits) (o : Order), a.length = b.length → ∃ xs, combine a b o = .ok xs ∧ xs.length = a.length ∧
    ∀ (i : Nat) (x y : Bit), a[i]? = some x → b[i]? = some y →
      ∃ p, xs[i]? = some p ∧
        p.toNat = match o with
          | .aIsLow => x.toNat + 2 * y.toNat
          | .aIsHigh => 2 * x.toNat + y.toNat

/-- 42_combiner.md: MERGE reads both planes whole, applies `MODE_POST`, writes `PIX` by the order flag (`ORD = 1`:
the primary plane, after `MODE_POST`, is bit 0; the spec's decisions D3 and D4, log 11), and changes
nothing else but `PHASE`. -/
def Obligations.MergeWritesThePixels : Prop :=
  ∀ (s : State) (p q : Bits), s.phase = .merge → s.total.toNat ≤ 1568 →
    s.planeP.readRange 0 (2 * s.total.toNat) = some p → s.planeS.readRange 0 (2 * s.total.toNat) = some q →
      ∃ t, step s = .next t ∧ t = { s with pix := t.pix, phase := .route } ∧
        (∀ a, 2 * s.total.toNat ≤ a → t.pix.read a = s.pix.read a) ∧
        ∀ (i : Nat) (x y : Bit), (modePost s.launch.modeCfg s.mode p q).1[i]? = some x →
          (modePost s.launch.modeCfg s.mode p q).2[i]? = some y →
          ∃ z, t.pix.read i = some z ∧
            z.toNat = if s.ord then x.toNat + 2 * y.toNat else 2 * x.toNat + y.toNat

/-- 10_state.md section 2 (decision D7): `MODE_POST` keeps the planes' length whatever the host configured, and the
default is no effect. -/
def Obligations.ModePostKeepsTheLengths : Prop :=
  (∀ (c : ModeCfg) (m : BitVec 2) (p q : Bits),
    (modePost c m p q).1.length = p.length ∧ (modePost c m p q).2.length = q.length) ∧
  ∀ (types : List ((BitVec 2 × Bit) × Bool)) (m : BitVec 2) (p q : Bits),
    modePost ⟨types, .noEffect⟩ m p q = (p, q)

/-- Rule R153: the grid `Assemble` returns, with the tile coordinates as integers that may be negative; every
sprite pixel appears exactly once, and every other element is 0. `W` and `H` are in 1..7, the domain of rule
R152 (outside it, `AssembleRefusesOutsideItsDomain`). The grid is row by row (log 25). -/
def Obligations.AssembleLaysTheTiles : Prop :=
  ∀ (pixels : List Pixel) (w h : Nat) (o : Offset), pixels.length = w * h * 64 →
    1 ≤ w → 1 ≤ h → o.ox + w ≤ 7 → o.oy + h ≤ 7 →
    ∃ g, assemble pixels w h o = .ok (.ok g) ∧ g.length = 56 * 56 ∧
      (∀ y x : Nat, y < 56 → x < 56 →
        let tx : Int := (x / 8 : Nat) - (o.ox : Int)
        let ty : Int := (y / 8 : Nat) - (o.oy : Int)
        g[canvasAddr y x]? =
          if 0 ≤ tx ∧ tx < w ∧ 0 ≤ ty ∧ ty < h then
            pixels[((ty * w + tx) * 64 + ((y % 8) * 8 + x % 8 : Nat)).toNat]?
          else some 0) ∧
      ∀ tx ty r c : Nat, tx < w → ty < h → r < 8 → c < 8 →
        (∃ z, pixels[(ty * w + tx) * 64 + r * 8 + c]? = some z ∧
          g[canvasAddr (8 * (o.oy + ty) + r) (8 * (o.ox + tx) + c)]? = some z) ∧
        ∀ y x : Nat, o.oy ≤ y / 8 → y / 8 < o.oy + h → o.ox ≤ x / 8 → x / 8 < o.ox + w →
          ((y / 8 - o.oy) * w + (x / 8 - o.ox)) * 64 + y % 8 * 8 + x % 8 = (ty * w + tx) * 64 + r * 8 + c →
            y = 8 * (o.oy + ty) + r ∧ x = 8 * (o.ox + tx) + c

/-- 43_assembler.md (decision D9, log 27): on its domain `Assemble` raises `PixelCountMismatch` for every pixel count
other than `W * H * 64`. -/
def Obligations.AssembleRejectsAWrongCount : Prop :=
  ∀ (pixels : List Pixel) (w h : Nat) (o : Offset), pixels.length ≠ w * h * 64 →
    1 ≤ w → 1 ≤ h → o.ox + w ≤ 7 → o.oy + h ≤ 7 → assemble pixels w h o = .ok (.error .pixelCountMismatch)

/-- 43_assembler.md: ROUTE writes every element of `CANVAS` from `PIX`, `TW`, `TH` and `PLACE`, ends the launch,
and changes nothing else. -/
def Obligations.RouteWritesTheCanvas : Prop :=
  ∀ (s : State) (xs : List Pixel) (o : Offset), s.phase = .route →
    s.pix.readRange 0 (s.tw.toNat * s.th.toNat * 64) = some xs →
    1 ≤ s.tw.toNat → 1 ≤ s.th.toNat → o = placeAt s.launch.place s.tw.toNat s.th.toNat →
    o.ox + s.tw.toNat ≤ 7 → o.oy + s.th.toNat ≤ 7 →
      ∃ t g, step s = .next t ∧ t = { s with canvas := t.canvas, phase := .done } ∧
        assemble xs s.tw.toNat s.th.toNat o = .ok (.ok g) ∧
        ∀ y x : Nat, y < 56 → x < 56 → t.canvas.read (canvasAddr y x) = g[canvasAddr y x]? ∧
          (t.canvas.read (canvasAddr y x)).isSome

/-! ### Errors and the order of the phases -/

/-- 60_exceptions.md section 3 (decision D12): `raise` sets `ERR` and `PHASE`, and no buffer element holds a value
afterwards; the launch inputs and the host's queue are not the block's to change. -/
def Obligations.RaiseLeavesOnlyTheError : Prop :=
  ∀ (e : DecodeError) (s : State), (s.raise e).phase = .fault ∧ (s.raise e).err = some e ∧
    (s.raise e).launch = s.launch ∧ (s.raise e).pending = s.pending ∧
    ∀ a, (s.raise e).planeP.read a = none ∧ (s.raise e).planeS.read a = none ∧
      (s.raise e).pix.read a = none ∧ (s.raise e).canvas.read a = none

/-- 60_exceptions.md section 3: `FAULT` and `DONE` are exclusive and terminal: no step leaves them but a START of the host, which is
also the only step that clears `ERR`. With no START to raise the machine waits for ever (log 5). -/
def Obligations.OnlyStartLeavesAFault : Prop :=
  (∀ s : State, s.phase = .fault ∨ s.phase = .done → s.pending = [] → step s = .fault .noStepEnabled) ∧
  (∀ s t : State, s.phase = .fault ∨ s.phase = .done → step s = .next t →
    t.phase = .hdr ∧ t.err = none ∧ ∃ l, s.pending = l :: t.pending) ∧
  ∀ s t : State, s.err ≠ none → step s = .next t → t.err = none →
    stopped s = true ∧ ∃ l, s.pending = l :: t.pending

/-- 44_sprite_decoder.md section 1: a step of a launch that raises nothing goes to the phase its table gives and
never takes the cursor back. -/
def Obligations.PhasesFollowTheirOrder : Prop :=
  ∀ s t : State, stopped s = false → step s = .next t → t.phase ≠ .fault →
    followsPhase s.phase t.phase = true ∧ s.cur ≤ t.cur ∧ t.err = s.err

/-- 44_sprite_decoder.md section 1: a plane phase is left exactly when `CNT == TOTAL`. -/
def Obligations.PlaneEndsWhenItIsComplete : Prop :=
  ∀ s t : State, s.phase = .planeP ∨ s.phase = .planeS → step s = .next t → t.phase ≠ .fault →
    (t.cnt = t.total → t.phase = if s.phase = .planeP then .modef else .merge) ∧
    (t.cnt ≠ t.total → t.phase = s.phase)

/-- Rule R73: every element advances the cursor by exactly its length; MERGE and ROUTE read no bit of `IN`: other
bits there change nothing of what they do, and the cursor stays. -/
def Obligations.ElementsAdvanceByTheirLength : Prop :=
  (∀ (i : Instr) (s t : State), exec i s = .next t → t.phase ≠ .fault → t.cur = s.cur + i.length) ∧
  ∀ (s t : State) (input : Bits), s.phase = .merge ∨ s.phase = .route → step s = .next t → t.phase ≠ .fault →
    t.cur = s.cur ∧ step (s.withInput input) = .next (t.withInput input)

/-- 44_sprite_decoder.md section 3: a fault leaves no output, and only ROUTE writes `CANVAS` in a launch. -/
def Obligations.NoPartialOutput : Prop :=
  (∀ s t : State, step s = .next t → t.phase = .fault → ∀ a, t.canvas.read a = none) ∧
  ∀ s t : State, stopped s = false → s.phase ≠ .route → step s = .next t → t.phase ≠ .fault →
    t.canvas = s.canvas

/-- 10_state.md section 4 and 60_exceptions.md section 1 (decisions D10, D11, log 16): `STATUS` is the phase code in
bits 3:0, the error code in bits 6:4 and 0 in bit 7; the codes; no two phases and no two errors share one. -/
def Obligations.StatusShowsPhaseAndError : Prop :=
  (∀ s : State, (status s).extractLsb' 0 4 = phaseCode s.phase ∧
    (status s).extractLsb' 4 3 = errCode s.err ∧ (status s).getLsbD 7 = false) ∧
  (phaseCode .idle = 0 ∧ phaseCode .hdr = 1 ∧ phaseCode .ordf = 2 ∧ phaseCode .ptypeP = 3 ∧
    phaseCode .planeP = 4 ∧ phaseCode .modef = 5 ∧ phaseCode .ptypeS = 6 ∧ phaseCode .planeS = 7 ∧
    phaseCode .merge = 8 ∧ phaseCode .route = 9 ∧ phaseCode .done = 10 ∧ phaseCode .fault = 11) ∧
  (errCode none = 0 ∧ errCode (some .invalidDimensions) = 1 ∧ errCode (some .cursorExhausted) = 2 ∧
    errCode (some .malformedVarint) = 3 ∧ errCode (some .planeLengthMismatch) = 4 ∧
    errCode (some .reservedMode) = 5 ∧ errCode (some .pixelCountMismatch) = 6) ∧
  (∀ p q : Phase, phaseCode p = phaseCode q → p = q) ∧
  ∀ e f : Option DecodeError, errCode e = errCode f → e = f

/-! ### Invariants -/

/-- The invariant holds at power-on. -/
def Obligations.PowerOnHasTheInvariant : Prop := Inv State.reset ∧ buffersWf State.reset

/-- 10_state.md sections 3 to 6: every step keeps the invariant, from every state that has it. -/
def Obligations.EveryStepKeepsTheInvariant : Prop :=
  ∀ s t : State, Inv s → step s = .next t → Inv t

/-- 20_memory.md: every step keeps the canonical form of the buffers, from every state that has it. -/
def Obligations.EveryStepKeepsBuffersCanonical : Prop :=
  ∀ s t : State, buffersWf s → step s = .next t → buffersWf t

/-- 10_state.md section 6: the invariant implies the canonical form. -/
def Obligations.InvariantMakesBuffersCanonical : Prop := ∀ s : State, Inv s → buffersWf s

/-- 44_sprite_decoder.md section 1: in each phase of a launch exactly one step is enabled, so a launch never sticks:
no fault and no refusal of the model is met before `DONE` or `FAULT`. -/
def Obligations.ALaunchNeverSticks : Prop :=
  ∀ s : State, Inv s → stopped s = false → ∃ t, step s = .next t

/-! ### Whole launches -/

/-- 44_sprite_decoder.md section 3: every launch ends, within `4 * 1568 + 7` steps and within `(LEN - BASE) + 2` steps
after its START (one step more here, for the START). -/
def Obligations.EveryLaunchEnds : Prop :=
  ∀ (s : State) (l : Launch) (rest : List Launch),
    stopped s = true → s.pending = l :: rest → launchAdmitted l = true →
      ∃ n t, n ≤ 1 + 6279 ∧ n ≤ 1 + (l.input.length - l.base + 2) ∧ run n s = .next t ∧
        (t.phase = .done ∨ t.phase = .fault) ∧ t.launch = l ∧ t.pending = rest

/-- 44_sprite_decoder.md section 4: running the steps of a launch to the end gives what the function `DecodeSprite`
gives: its grid at `DONE`, or its error at `FAULT`. A launch that is not admitted has neither
(`DecodeSpriteRefusesOutsideItsDomain`, `StartRefusesInputsOutsideTheDomain`). -/
def Obligations.StepsComputeDecodeSprite : Prop :=
  ∀ (s : State) (l : Launch) (rest : List Launch),
    stopped s = true → s.pending = l :: rest → launchAdmitted l = true →
      ∃ n t, run n s = .next t ∧ stopped t = true ∧ t.launch = l ∧ t.pending = rest ∧
        ∃ r, decodeSprite l = .ok r ∧ result t = some r

/-- 41_packetstream.md section 4 and 44_sprite_decoder.md section 3: a launch that ends well depends on no bit at or
after its final cursor. -/
def Obligations.BitsAfterTheSpriteDoNotMatter : Prop :=
  ∀ (n : Nat) (s t : State) (input : Bits), stopped s = false → run n s = .next t →
    t.phase = .done → t.pending = s.pending →
    input.take t.cur = s.launch.input.take t.cur → t.cur ≤ input.length →
      run n (s.withInput input) = .next (t.withInput input)

/-- 10_state.md section 8 and 70_reset_and_hazards.md section 1: what a launch gives the host does not depend on
anything before it: from any two stopped states the same launch inputs give, after the same number of
steps, the same result, at `DONE` the same `CUR`, `TH`, `TW`, `ORD`, `MODE`, and the same answer to every read
of the host. -/
def Obligations.LaunchesForgetThePast : Prop :=
  ∀ (n : Nat) (l : Launch) (r₁ r₂ : List Launch) (s₁ s₂ t₁ : State),
    stopped s₁ = true → stopped s₂ = true → s₁.pending = l :: r₁ → s₂.pending = l :: r₂ →
    run n s₁ = .next t₁ → t₁.pending = r₁ → stopped t₁ = true →
      ∃ t₂, run n s₂ = .next t₂ ∧ t₂.pending = r₂ ∧ result t₂ = result t₁ ∧ status t₂ = status t₁ ∧
        (t₁.phase = .done → t₂.cur = t₁.cur ∧ t₂.th = t₁.th ∧ t₂.tw = t₁.tw ∧ t₂.ord = t₁.ord ∧
          t₂.mode = t₁.mode) ∧
        ∀ r, hostRead r t₂ = hostRead r t₁

/-! ### The plane unpacker as a function -/

/-- 41_packetstream.md sections 1 and 4: `DecodePlane` delivers exactly `TOTAL` pairs or fails with
`MalformedVarint` or `CursorExhausted`; a plane of no pairs reads no bit. -/
def Obligations.DecodePlaneGivesTotalPairs : Prop :=
  (∀ (total : Nat) (r : Bool) (bits : Bits),
    match decodePlane total r bits with
    | .ok (ps, _) => ps.length = total
    | .error e => e = .malformedVarint ∨ e = .cursorExhausted) ∧
  ∀ (r : Bool) (bits : Bits), decodePlane 0 r bits = .ok ([], bits)

/-- 41_packetstream.md section 4: `DecodePlane` takes bits only from the front, and neither its output nor where it
stops depends on the bits after them. -/
def Obligations.DecodePlaneReadsOnlyItsElements : Prop :=
  ∀ (total : Nat) (r : Bool) (bits rest : Bits) (ps : List Pair),
    decodePlane total r bits = .ok (ps, rest) →
      ∃ used, bits = used ++ rest ∧ ∀ tail, decodePlane total r (used ++ tail) = .ok (ps, tail)

/-- 41_packetstream.md sections 2 and 3, the spec's choice of 90_conflicts.md C1 (log 12): in every plane that starts
with a literal packet and still needs pairs at its end, the pairs before the terminating `00` are the plane's and
the run packet is read from the bits after the `00`, as a plane of the pairs still to come that starts with a run.
With MPR's alternation example, eight bits, and the six bits that tell the two readings of the `00` apart
(95_test_vectors.md B2.10, B2.11). -/
def Obligations.TerminatorIsDiscarded : Prop :=
  (∀ (total : Nat) (lits : List Pair) (bits : Bits), (∀ p ∈ lits, p ≠ 0) → lits.length < total →
    decodePlane total false (lits.flatMap pairBits ++ false :: false :: bits) =
      prependPairs lits (decodePlane (total - lits.length) true bits)) ∧
  decodePlane 3 false [true, true, true, false, false, false, false, false] = .ok ([3, 2, 0], []) ∧
  decodePlane 3 false [true, true, true, false, false, false] = .error .malformedVarint

/-! ### The domains of the functions -/

/-- 43_assembler.md and 93_implementation_defined.md U12: called with `W` or `H` outside 1..7, or with an offset that
leaves the canvas, `Assemble` is refused, and only then. That it is refused whatever the pixel count, the domain
being tested before the count, is the model's choice (log 18). -/
def Obligations.AssembleRefusesOutsideItsDomain : Prop :=
  ∀ (pixels : List Pixel) (w h : Nat) (o : Offset),
    assemble pixels w h o = .error .outsideAssembleDomain ↔
      ¬ (1 ≤ w ∧ w ≤ 7 ∧ 1 ≤ h ∧ h ≤ 7 ∧ o.ox + w ≤ 7 ∧ o.oy + h ≤ 7)

/-- 44_sprite_decoder.md section 4, 10_state.md section 2 and 93_implementation_defined.md U3; the model's choice (log
6): `DecodeSprite` is refused for a launch with `BASE > LEN` or a placement that leaves the canvas, and has a
value, a grid or an error, for every other launch. -/
def Obligations.DecodeSpriteRefusesOutsideItsDomain : Prop :=
  ∀ l : Launch,
    (inDomain l → ∃ r, decodeSprite l = .ok r ∧ ∀ g, r = .ok g → g.length = 56 * 56) ∧
    (¬ inDomain l → decodeSprite l = .error .launchNotAdmitted)

/-! ### What the host reads -/

/-- 10_state.md section 7 (decisions D11, D21): at `DONE` the host reads `STATUS`, `TH`, `TW`, `ORD`, `MODE`, `CUR` and
every element of `CANVAS`; at `FAULT` `STATUS` alone, and so everywhere else (log 30). -/
def Obligations.HostReadsByPhase : Prop :=
  (∀ s : State, hostRead .status s = some (status s).toNat) ∧
  (∀ s : State, s.phase = .done →
    hostRead .th s = some s.th.toNat ∧ hostRead .tw s = some s.tw.toNat ∧ hostRead .ord s = some s.ord.toNat ∧
    hostRead .mode s = some s.mode.toNat ∧ hostRead .cur s = some s.cur ∧
    ∀ y x : Nat, hostRead (.canvas y x) s =
      if y < 56 ∧ x < 56 then (s.canvas.read (canvasAddr y x)).map BitVec.toNat else none) ∧
  ∀ (s : State) (r : HostRead), s.phase ≠ .done → r ≠ .status → hostRead r s = none

/-- 10_state.md sections 4 and 7: at `DONE`, in every state with the invariant, there is a result, a grid of 56 x 56
pixels, and each of the host's reads of `CANVAS` is the pixel of that grid. -/
def Obligations.HostReadsTheResultAtDone : Prop :=
  ∀ s : State, Inv s → s.phase = .done → ∃ g, result s = some (.ok g) ∧ g.length = 56 * 56 ∧
    ∀ y x : Nat, y < 56 → x < 56 →
      ∃ p, g[canvasAddr y x]? = some p ∧ hostRead (.canvas y x) s = some p.toNat

/-- 10_state.md section 7 and 60_exceptions.md section 3: after an error the host can tell two states apart by their
error only, whatever values their registers were left with (log 1). -/
def Obligations.FaultsOfOneErrorLookAlike : Prop :=
  ∀ (s₁ s₂ t₁ t₂ : State) (r : HostRead), stopped s₁ = false → stopped s₂ = false →
    step s₁ = .next t₁ → step s₂ = .next t₂ → t₁.phase = .fault → t₂.phase = .fault → t₁.err = t₂.err →
      hostRead r t₁ = hostRead r t₂ ∧ result t₁ = result t₂ ∧ (result t₁).isSome
end

