-- ==== Sys2Proof/Laws/Decode.lean ====
section
/-!
SUPPORT. The bit-string functions: lengths, values, and what the readers do with a field or a codeword that
stands at the head of the bits.
-/

namespace Sys2Proof

@[simp] theorem bitsOf_length (n v : Nat) : (bitsOf n v).length = n := by
  induction n with
  | zero => rfl
  | succ n ih => simp [bitsOf, ih]

theorem valueFrom_append (acc : Nat) (s t : Bits) :
    valueFrom acc (s ++ t) = valueFrom (valueFrom acc s) t := by
  induction s generalizing acc with
  | nil => rfl
  | cons b s ih => exact ih _

theorem valueFrom_eq (acc : Nat) (s : Bits) : valueFrom acc s = acc * 2 ^ s.length + value s := by
  induction s generalizing acc with
  | nil => simp [valueFrom, value]
  | cons b s ih =>
    have h : value (b :: s) = valueFrom (2 * 0 + b.toNat) s := rfl
    rw [valueFrom, ih, h, ih (2 * 0 + b.toNat), List.length_cons, Nat.pow_succ]
    ring

theorem value_cons (b : Bit) (s : Bits) : value (b :: s) = b.toNat * 2 ^ s.length + value s := by
  rw [value, valueFrom, valueFrom_eq, Nat.mul_zero, Nat.zero_add]

theorem value_lt (s : Bits) : value s < 2 ^ s.length := by
  induction s with
  | nil => simp [value, valueFrom]
  | cons b s ih =>
    rw [value_cons, List.length_cons, Nat.pow_succ]
    cases b <;> simp <;> omega

theorem value_bitsOf (n v : Nat) : value (bitsOf n v) = v % 2 ^ n := by
  induction n with
  | zero => simp [bitsOf, value, valueFrom, Nat.mod_one]
  | succ n ih =>
    rw [bitsOf, value_cons, ih, bitsOf_length, Nat.mod_pow_succ, Nat.toNat_testBit, Nat.mul_comm, Nat.add_comm]

theorem value_bitsOf_of_lt {n v : Nat} (h : v < 2 ^ n) : value (bitsOf n v) = v := by
  rw [value_bitsOf, Nat.mod_eq_of_lt h]

/-- A field that stands at the head of the bits is read whole. -/
theorem readField_append {n : Nat} {s : Bits} (h : s.length = n) (rest : Bits) :
    readField n (s ++ rest) = .ok (value s, rest) := by
  subst h
  simp [readField]

/-- What a field that was read says of the bits. -/
theorem readField_ok {n v : Nat} {bits rest : Bits} (h : readField n bits = .ok (v, rest)) :
    ∃ s, bits = s ++ rest ∧ s.length = n ∧ v = value s := by
  unfold readField at h
  split at h
  · cases h
  · cases h
    exact ⟨bits.take n, (List.take_append_drop n bits).symm, by simp; omega, rfl⟩

theorem readField_error {n : Nat} {bits : Bits} {e : DecodeError} (h : readField n bits = .error e) :
    bits.length < n ∧ e = .cursorExhausted := by
  unfold readField at h
  split at h
  · cases h
    exact ⟨‹_›, rfl⟩
  · cases h

@[simp] theorem runPrefix_length {k : Nat} (h : 1 ≤ k) : (runPrefix k).length = k := by
  simp [runPrefix]
  omega

theorem readRunPrefix_ones (j k pv : Nat) (rest : Bits) :
    readRunPrefix k pv (List.replicate j true ++ false :: rest) =
      some (k + j + 1, valueFrom pv (List.replicate j true ++ [false]), rest) := by
  induction j generalizing k pv with
  | zero => simp [readRunPrefix, valueFrom]
  | succ j ih =>
    rw [List.replicate_succ, List.cons_append, readRunPrefix, ih, List.cons_append, valueFrom]
    simp
    omega

/-- A prefix of length `k` at the head of the bits is read whole. -/
theorem readRunPrefix_append {k : Nat} (h : 1 ≤ k) (rest : Bits) :
    readRunPrefix 0 0 (runPrefix k ++ rest) = some (k, value (runPrefix k), rest) := by
  have := readRunPrefix_ones (k - 1) 0 0 rest
  simp only [runPrefix, List.append_assoc, List.singleton_append, this, value]
  simp
  omega

theorem readRunPrefix_some {k pv k' pv' : Nat} {bits rest : Bits}
    (h : readRunPrefix k pv bits = some (k', pv', rest)) :
    ∃ j, bits = List.replicate j true ++ false :: rest ∧ k' = k + j + 1 ∧
      pv' = valueFrom pv (List.replicate j true ++ [false]) := by
  induction bits generalizing k pv with
  | nil => simp [readRunPrefix] at h
  | cons b bits ih =>
    cases b with
    | false =>
      simp only [readRunPrefix, Option.some.injEq, Prod.mk.injEq] at h
      obtain ⟨rfl, rfl, rfl⟩ := h
      exact ⟨0, by simp [valueFrom]⟩
    | true =>
      obtain ⟨j, rfl, rfl, rfl⟩ := ih h
      exact ⟨j + 1, by simp [List.replicate_succ], by omega, by simp [List.replicate_succ, valueFrom]⟩

theorem value_ones (j : Nat) : value (List.replicate j true) = 2 ^ j - 1 := by
  induction j with
  | zero => rfl
  | succ j ih =>
    have := Nat.one_le_two_pow (n := j)
    rw [List.replicate_succ, value_cons, ih]
    simp [Nat.pow_succ]
    omega

/-- The value of a prefix in closed form (40_varint.md rule R102). -/
theorem value_runPrefix {k : Nat} (h : 1 ≤ k) : value (runPrefix k) = 2 ^ k - 2 := by
  obtain ⟨j, rfl⟩ : ∃ j, k = j + 1 := ⟨k - 1, by omega⟩
  have := Nat.one_le_two_pow (n := j)
  simp only [runPrefix, Nat.add_sub_cancel]
  rw [value, valueFrom_append, ← value, value_ones, valueFrom, valueFrom]
  simp [Nat.pow_succ]
  omega

/-- A codeword at the head of the bits is decoded to its prefix length and residual. -/
theorem varintDecode_append {k v : Nat} (hk : 1 ≤ k) (hv : v < 2 ^ k) (rest : Bits) :
    varintDecode (encodeRun k v ++ rest) =
      .ok (⟨k, value (runPrefix k), v, value (runPrefix k) + v + 1⟩, rest) := by
  have hl : ¬ (bitsOf k v ++ rest).length < k := by simp
  simp only [varintDecode, encodeRun, List.append_assoc, readRunPrefix_append hk, hl, if_false]
  have ht : (bitsOf k v ++ rest).take k = bitsOf k v := 
    List.take_left' (bitsOf_length k v)
  have hd : (bitsOf k v ++ rest).drop k = rest := 
    List.drop_left' (bitsOf_length k v)
  rw [ht, hd, value_bitsOf_of_lt hv]

namespace Machine

theorem runPrefixValue_eq {k : Nat} (h : 1 ≤ k) : runPrefixValue k = 2 ^ k - 2 := value_runPrefix h

/-- The run length in closed form (40_varint.md rule R102). -/
theorem runLength_eq {k : Nat} (h : 1 ≤ k) (v : Nat) : runLength k v = 2 ^ k + v - 1 := by
  have : 2 ≤ 2 ^ k := by
    simpa using Nat.pow_le_pow_right (n := 2) (by omega) h
  rw [runLength, runPrefixValue_eq h]
  omega

theorem runLength_pos (k v : Nat) : 1 ≤ runLength k v := by
  unfold runLength
  omega

end Machine

end Sys2Proof
end

