-- ==== Sys2Proof/Laws/Codewords.lean ====
section
/-!
SUPPORT. What a successful reading of a codeword says of its bits, and the RUN element of each codeword.
-/

namespace Sys2Proof

/-- The low bits of a number do not see a multiple of a power above them. -/
theorem bitsOf_add_mul (n c v : Nat) : bitsOf n (c * 2 ^ n + v) = bitsOf n v := by
  have : ∀ m, m ≤ n → bitsOf m (c * 2 ^ n + v) = bitsOf m v := by
    intro m hm
    induction m with
    | zero => rfl
    | succ m ih =>
      have low : ∀ x, Nat.testBit x m = Nat.testBit (x % 2 ^ n) m := by
        intro x
        rw [Nat.testBit_mod_two_pow]
        simp [show m < n by omega]
      rw [bitsOf, bitsOf, ih (by omega), low, low v]
      simp
  exact this n le_rfl

/-- A bit string is the spelling of its own value at its own length. -/
theorem bitsOf_value (s : Bits) : bitsOf s.length (value s) = s := by
  induction s with
  | nil => rfl
  | cons b s ih =>
    have hlt := value_lt s
    have top : (value (b :: s)).testBit s.length = b := by
      rw [value_cons]
      cases b
      · simpa using Nat.testBit_lt_two_pow hlt
      · have := Nat.testBit_two_pow_add_eq (value s) s.length
        simp [this, Nat.testBit_lt_two_pow hlt]
    rw [List.length_cons, bitsOf, top, value_cons, bitsOf_add_mul, ih]

/-- Ones alone are no prefix of a codeword. -/
theorem readRunPrefix_ones_only (m k pv : Nat) : readRunPrefix k pv (List.replicate m true) = none := by
  induction m generalizing k pv with
  | zero => rfl
  | succ m ih => simp [List.replicate_succ, readRunPrefix, ih]

/-- A codeword that was read: its bits, and the registers it leaves. -/
theorem varintDecode_ok {bits rest : Bits} {r : Varint} (h : varintDecode bits = .ok (r, rest)) :
    1 ≤ r.k ∧ r.rv < 2 ^ r.k ∧ bits = encodeRun r.k r.rv ++ rest ∧ r.pv = 2 ^ r.k - 2 ∧
      r.n = r.pv + r.rv + 1 := by
  unfold varintDecode at h
  split at h
  · cases h
  · rename_i k pv rs hp
    split at h
    · cases h
    · cases h
      obtain ⟨j, rfl, rfl, rfl⟩ := readRunPrefix_some hp
      have hk : 1 ≤ 0 + j + 1 := by omega
      have hl : (rs.take (0 + j + 1)).length = 0 + j + 1 := by simp; omega
      refine ⟨hk, by simpa only [hl] using value_lt (rs.take (0 + j + 1)), ?_, ?_, rfl⟩
      · have hv := bitsOf_value (rs.take (0 + j + 1))
        rw [hl] at hv
        simp only [encodeRun, hv, List.append_assoc, List.take_append_drop]
        simp [runPrefix]
      · have hp := value_runPrefix hk
        simpa [runPrefix, value] using hp

/-- A well-formed RUN element: the bounds of its fields, its encoding and its length. -/
theorem runInstr_of_runFields {i : Instr} {k v : Nat} (h : i.runFields = some (k, v))
    (hw : i.wellFormed = true) :
    1 ≤ k ∧ v < 2 ^ k ∧ runInstr k v = i ∧ encode i = encodeRun k v ∧ i.ctx = .run ∧ i.length = 2 * k := by
  cases i <;> simp [Instr.runFields] at h <;> obtain ⟨rfl, rfl⟩ := h
  case runLong k v =>
    simp [Instr.wellFormed] at hw
    refine ⟨by omega, hw.2, ?_, rfl, rfl, rfl⟩
    unfold runInstr
    split <;> first | omega | rfl
  all_goals
    rename_i x
    refine ⟨by omega, x.isLt, by simp [runInstr], rfl, rfl, rfl⟩

/-- The RUN element of a codeword carries the codeword's fields. -/
theorem runFields_runInstr {k v : Nat} (hk : 1 ≤ k) (hv : v < 2 ^ k) :
    (runInstr k v).runFields = some (k, v) ∧ (runInstr k v).wellFormed = true := by
  unfold runInstr
  split <;> first | (simp [Instr.runFields, Instr.wellFormed]; omega) | skip
  simp [Instr.runFields, Instr.wellFormed, hv]
  by_contra h
  have : k < 17 := by omega
  interval_cases k <;> simp_all

/-- Every element of the RUN context carries a prefix length and a residual. -/
theorem runFields_of_ctx {i : Instr} (h : i.ctx = .run) : ∃ k v, i.runFields = some (k, v) := by
  cases i <;> simp [Instr.ctx] at h <;> exact ⟨_, _, rfl⟩

/-- The reference encoder on the run length of a codeword (30_encoding.md rule R86). -/
theorem encodeRunLength_eq {k v : Nat} (hk : 1 ≤ k) (hv : v < 2 ^ k) :
    encodeRunLength (2 ^ k + v - 1) = encodeRun k v := by
  have h2 : 2 ≤ 2 ^ k := by simpa using Nat.pow_le_pow_right (n := 2) (by omega) hk
  have hx : 2 ^ k + v - 1 + 1 = 2 ^ k + v := by omega
  have hlog : (2 ^ k + v).log2 = k := by
    rw [Nat.log2_eq_iff (by omega), Nat.pow_succ]
    omega
  have hp := bitsOf_value (runPrefix k)
  rw [runPrefix_length hk, value_runPrefix hk] at hp
  simp only [encodeRunLength, hx, hlog, Nat.add_sub_cancel_left, encodeRun, hp]

end Sys2Proof
end

