-- ==== Sys2Proof/Laws/PerInstr.lean ====
section
/-!
SUPPORT. Statements for all instructions, one lemma per constructor of `Instr`.
-/

namespace Sys2Proof.Laws.EncodingLength

/-- An element's encoding has the length of rule R72's table, what the element advances the cursor by (rule
R73). -/
def Statement (i : Instr) : Prop := i.wellFormed = true → (encode i).length = i.length

theorem run {k : Nat} (h : 1 ≤ k) (v : Nat) : (encodeRun k v).length = 2 * k := by
  simp [encodeRun, h]
  omega

theorem dim (h w : BitVec 4) : Statement (.dim h w) := fun _ => by simp [encode, Instr.length]

theorem ord (f : Bit) : Statement (.ord f) := fun _ => rfl

theorem ptp (t : Bit) : Statement (.ptp t) := fun _ => rfl

theorem runK1 (v : BitVec 1) : Statement (.runK1 v) := fun _ => run (by decide) v.toNat

theorem runK2 (v : BitVec 2) : Statement (.runK2 v) := fun _ => run (by decide) v.toNat

theorem runK3 (v : BitVec 3) : Statement (.runK3 v) := fun _ => run (by decide) v.toNat

theorem runK4 (v : BitVec 4) : Statement (.runK4 v) := fun _ => run (by decide) v.toNat

theorem runK5 (v : BitVec 5) : Statement (.runK5 v) := fun _ => run (by decide) v.toNat

theorem runK6 (v : BitVec 6) : Statement (.runK6 v) := fun _ => run (by decide) v.toNat

theorem runK7 (v : BitVec 7) : Statement (.runK7 v) := fun _ => run (by decide) v.toNat

theorem runK8 (v : BitVec 8) : Statement (.runK8 v) := fun _ => run (by decide) v.toNat

theorem runK9 (v : BitVec 9) : Statement (.runK9 v) := fun _ => run (by decide) v.toNat

theorem runK10 (v : BitVec 10) : Statement (.runK10 v) := fun _ => run (by decide) v.toNat

theorem runK11 (v : BitVec 11) : Statement (.runK11 v) := fun _ => run (by decide) v.toNat

theorem runK12 (v : BitVec 12) : Statement (.runK12 v) := fun _ => run (by decide) v.toNat

theorem runK13 (v : BitVec 13) : Statement (.runK13 v) := fun _ => run (by decide) v.toNat

theorem runK14 (v : BitVec 14) : Statement (.runK14 v) := fun _ => run (by decide) v.toNat

theorem runK15 (v : BitVec 15) : Statement (.runK15 v) := fun _ => run (by decide) v.toNat

theorem runK16 (v : BitVec 16) : Statement (.runK16 v) := fun _ => run (by decide) v.toNat

theorem runLong (k v : Nat) : Statement (.runLong k v) := fun h => by
  simp [Instr.wellFormed] at h
  exact run (by omega) v

theorem lit1 : Statement .lit1 := fun _ => rfl

theorem lit2 : Statement .lit2 := fun _ => rfl

theorem lit3 : Statement .lit3 := fun _ => rfl

theorem lend : Statement .lend := fun _ => rfl

theorem mode1 : Statement .mode1 := fun _ => rfl

theorem mode2 : Statement .mode2 := fun _ => rfl

theorem mode3 : Statement .mode3 := fun _ => rfl

theorem modeRsv : Statement .modeRsv := fun _ => rfl

theorem pts (t : Bit) : Statement (.pts t) := fun _ => rfl

end Sys2Proof.Laws.EncodingLength
end

