-- ==== Sys2Proof/Laws/BigStep.lean ====
section
/-!
SUPPORT. The fuel of `decodePlaneLoop` never shows, and joining pairs packet by packet.
-/

namespace Sys2Proof.Machine

/-- More fuel than bits is enough: every element takes two bits or more (41_packetstream.md rule R130). -/
theorem decodePlaneLoop_fuel (need : Nat) (r : Bool) {f g : Nat} {bits : Bits} (hf : bits.length < f)
    (hg : bits.length < g) : decodePlaneLoop f need r bits = decodePlaneLoop g need r bits := by
  induction f generalizing g need r bits with
  | zero => omega
  | succ f ih =>
    obtain ⟨g, rfl⟩ : ∃ g', g = g' + 1 := ⟨g - 1, by omega⟩
    cases need with
    | zero => simp [decodePlaneLoop]
    | succ need =>
      cases r <;> simp only [decodePlaneLoop]
      · cases hr : readField 2 bits with
        | error e => rfl
        | ok q =>
          obtain ⟨p, rest⟩ := q
          obtain ⟨s, rfl, hs, -⟩ := readField_ok hr
          simp at hf hg
          cases p with
          | zero => exact ih _ _ (by omega) (by omega)
          | succ p => simp only []; rw [ih (g := g) need false (by omega) (by omega)]
      · cases hr : varintDecode bits with
        | error e => rfl
        | ok q =>
          obtain ⟨v, rest⟩ := q
          obtain ⟨hk, -, rfl, -⟩ := varintDecode_ok hr
          have := Laws.EncodingLength.run hk v.rv
          simp at hf hg
          simp only []
          rw [ih (g := g) _ false (by omega) (by omega)]

theorem prependPairs_append (ps qs : List Pair) (r : Except DecodeError (List Pair × Bits)) :
    prependPairs (ps ++ qs) r = prependPairs ps (prependPairs qs r) := by
  cases r <;> simp [prependPairs]

end Sys2Proof.Machine
end

