-- ==== Sys2Proof/Laws/HostView.lean ====
section
/-!
SUPPORT. The host's reads by phase, and what two states must share to look alike to the host.
-/

namespace Sys2Proof.Machine

theorem hostRead_status (s : State) : hostRead .status s = some (status s).toNat := rfl

theorem hostRead_of_done {s : State} (h : s.phase = .done) (r : HostRead) : hostRead r s = readValue r s := by
  cases r <;> simp [hostRead, visible, h]

theorem hostRead_of_not_done {s : State} (h : s.phase ≠ .done) {r : HostRead} (hr : r ≠ .status) :
    hostRead r s = none := by
  cases r <;> simp [hostRead, visible, h] at hr ⊢

/-- Away from `DONE` two states of one `STATUS` look alike. -/
theorem hostRead_eq_of_status {s t : State} (hs : s.phase ≠ .done) (ht : t.phase ≠ .done)
    (h : status s = status t) (r : HostRead) : hostRead r s = hostRead r t := by
  by_cases hr : r = .status
  · rw [hr, hostRead_status, hostRead_status, h]
  · rw [hostRead_of_not_done hs hr, hostRead_of_not_done ht hr]

end Sys2Proof.Machine
end

