-- ==== Sys2Proof/Laws/Memory.lean ====
section
/-!
SUPPORT. The buffers: a write keeps the canonical form, reads back what it wrote and leaves every other
element alone; a buffer whose listed addresses are `0 .. n-1` reads whole.
-/

namespace Sys2Proof.Machine

variable {α : Type}

theorem Memory.cells_keys (a : Nat) (vs : List α) :
    (Memory.cells a vs).map Prod.fst = List.range' a vs.length := by
  induction vs generalizing a with
  | nil => rfl
  | cons v vs ih => simp [Memory.cells, ih, List.range'_succ]

theorem Memory.mem_cells {a : Nat} {vs : List α} {c : Nat × α} (h : c ∈ Memory.cells a vs) :
    a ≤ c.1 ∧ c.1 < a + vs.length := by
  have : c.1 ∈ List.range' a vs.length := Memory.cells_keys a vs ▸ List.mem_map_of_mem h
  simpa [List.mem_range'_1] using this

theorem Memory.read_nil (a : Nat) : Memory.read ([] : Memory α) a = none := rfl

theorem Memory.read_append (m₁ m₂ : Memory α) (b : Nat) :
    Memory.read (m₁ ++ m₂) b = (Memory.read m₁ b).or (Memory.read m₂ b) := by
  induction m₁ with
  | nil => rfl
  | cons c m ih =>
    obtain ⟨a, v⟩ := c
    unfold Memory.read at ih ⊢
    by_cases h : b = a
    · simp [h]
    · simp [List.lookup_cons, ih, show (b == a) = false by simpa using h]

theorem Memory.read_cells (a : Nat) (vs : List α) (b : Nat) :
    Memory.read (Memory.cells a vs) b = if a ≤ b then vs[b - a]? else none := by
  induction vs generalizing a with
  | nil => simp [Memory.cells, Memory.read]
  | cons v vs ih =>
    have ih := ih (a + 1)
    unfold Memory.read at ih ⊢
    rw [Memory.cells, List.lookup_cons, ih]
    rcases Nat.lt_trichotomy b a with h | h | h
    · simp [show (b == a) = false by simpa using by omega, show ¬ a ≤ b by omega, show ¬ a + 1 ≤ b by omega]
    · simp [h]
    · obtain ⟨d, rfl⟩ : ∃ d, b = a + 1 + d := ⟨b - (a + 1), by omega⟩
      simp [show (a + 1 + d == a) = false by simpa using by omega, show a + 1 + d - a = d + 1 by omega,
        show a ≤ a + 1 + d by omega]

theorem Memory.read_filter (m : Memory α) (p : Nat → Bool) (b : Nat) :
    Memory.read (m.filter (fun c => p c.1)) b = if p b then Memory.read m b else none := by
  induction m with
  | nil => simp [Memory.read]
  | cons c m ih =>
    obtain ⟨a, v⟩ := c
    unfold Memory.read at ih ⊢
    by_cases hp : p a <;> by_cases hb : b = a
    · subst hb; simp [List.filter, hp]
    · simp [List.filter, hp, List.lookup_cons, ih, show (b == a) = false by simpa using hb]
    · subst hb; simp [List.filter, hp, ih]
    · simp [List.filter, hp, List.lookup_cons, ih, show (b == a) = false by simpa using hb]

/-- What a write does to every element. -/
theorem Memory.read_write (m : Memory α) (a : Nat) (vs : List α) (b : Nat) :
    (m.write a vs).read b = if a ≤ b ∧ b < a + vs.length then vs[b - a]? else m.read b := by
  rw [Memory.write, Memory.read_append, Memory.read_append, Memory.read_cells,
    Memory.read_filter m (fun x => decide (x < a)), Memory.read_filter m (fun x => decide (a + vs.length ≤ x))]
  rcases Nat.lt_or_ge b a with h | h
  · simp [h, show ¬ a ≤ b by omega, show ¬ a + vs.length ≤ b by omega]
  · rcases Nat.lt_or_ge b (a + vs.length) with h' | h'
    · simp [h, h', show ¬ b < a by omega, show ¬ a + vs.length ≤ b by omega]
    · simp [h, h', show ¬ b < a by omega, show ¬ b < a + vs.length by omega,
        List.getElem?_eq_none (show vs.length ≤ b - a by omega)]

/-- A write leaves every element outside it alone. -/
theorem Memory.read_write_of_outside (m : Memory α) (a : Nat) (vs : List α) {b : Nat}
    (h : b < a ∨ a + vs.length ≤ b) : (m.write a vs).read b = m.read b := by
  rw [Memory.read_write, if_neg (by omega)]

/-- A write is read back. -/
theorem Memory.read_write_of_inside (m : Memory α) (a : Nat) (vs : List α) (i : Nat) (h : i < vs.length) :
    (m.write a vs).read (a + i) = vs[i]? := by
  rw [Memory.read_write, if_pos (by omega), show a + i - a = i by omega]

theorem Memory.cells_pairwise (a : Nat) (vs : List α) :
    (Memory.cells a vs).Pairwise (fun c d => c.1 < d.1) := by
  have := List.pairwise_lt_range' (s := a) (n := vs.length)
  rw [← Memory.cells_keys a vs, List.pairwise_map] at this
  exact this

/-- A write inside the space keeps the canonical form. -/
theorem Memory.write_wf {m : Memory α} (hm : m.wf) {a : Nat} {vs : List α}
    (h : a + vs.length ≤ Config.maxPlaneBits) : (m.write a vs).wf := by
  have key : ∀ c, c ∈ m.write a vs → c ∈ m ∨ (a ≤ c.1 ∧ c.1 < a + vs.length) := by
    intro c hc
    rcases List.mem_append.1 hc with hc | hc
    · rcases List.mem_append.1 hc with hc | hc
      · exact .inl (List.mem_filter.1 hc).1
      · exact .inr (Memory.mem_cells hc)
    · exact .inl (List.mem_filter.1 hc).1
  refine ⟨?_, fun c hc => ?_⟩
  · refine List.pairwise_append.2 ⟨List.pairwise_append.2
      ⟨hm.1.filter _, Memory.cells_pairwise a vs, fun c hc d hd => ?_⟩, hm.1.filter _, fun c hc d hd => ?_⟩
    · have hc := (List.mem_filter.1 hc).2
      have hd := Memory.mem_cells hd
      simp at hc
      omega
    · have hd := (List.mem_filter.1 hd).2
      simp at hd
      rcases List.mem_append.1 hc with hc | hc
      · have hc := (List.mem_filter.1 hc).2
        simp at hc
        omega
      · have hc := Memory.mem_cells hc
        omega
  · rcases key c hc with hc | hc
    · exact hm.2 c hc
    · omega

theorem Memory.wf_nil : Memory.wf ([] : Memory α) := by
  constructor <;> simp

/-- A buffer whose listed addresses are `0 .. n-1`, all inside the space, is canonical. -/
theorem Memory.wf_of_keys {m : Memory α} {n : Nat} (h : m.map Prod.fst = List.range n)
    (hn : n ≤ Config.maxPlaneBits) : m.wf := by
  refine ⟨?_, fun c hc => ?_⟩
  · have := List.pairwise_lt_range (n := n)
    rw [← h, List.pairwise_map] at this
    exact this
  · have : c.1 ∈ List.range n := h ▸ List.mem_map_of_mem hc
    have := List.mem_range.1 this
    omega

/-- Writing where the filled part `0 .. n-1` ends makes it `0 .. n + length - 1`. -/
theorem Memory.keys_write_at_end {m : Memory α} {n : Nat} (h : m.map Prod.fst = List.range n) (vs : List α) :
    (m.write n vs).map Prod.fst = List.range (n + vs.length) := by
  have hlt : ∀ c ∈ m, c.1 < n := fun c hc => List.mem_range.1 (h ▸ List.mem_map_of_mem hc)
  have h1 : m.filter (fun c => decide (c.1 < n)) = m :=
    List.filter_eq_self.2 fun c hc => by simpa using hlt c hc
  have h2 : m.filter (fun c => decide (n + vs.length ≤ c.1)) = [] :=
    List.filter_eq_nil_iff.2 fun c hc => by have := hlt c hc; simp; omega
  rw [Memory.write, h1, h2, List.append_nil, List.map_append, h, Memory.cells_keys, List.range_eq_range',
    List.range_eq_range']
  simpa using (List.range'_append_1 (s := 0) (m := n) (n := vs.length))

/-- A range every element of which holds a value reads. -/
theorem Memory.readRange_isSome (m : Memory α) (a n : Nat)
    (h : ∀ i, i < n → (m.read (a + i)).isSome) : ∃ vs, m.readRange a n = some vs ∧ vs.length = n := by
  induction n generalizing a with
  | zero => exact ⟨[], rfl, rfl⟩
  | succ n ih =>
    obtain ⟨v, hv⟩ := Option.isSome_iff_exists.1 (h 0 (by omega))
    obtain ⟨vs, hvs, hl⟩ := ih (a + 1) fun i hi => by
      have := h (i + 1) (by omega)
      rwa [show a + (i + 1) = a + 1 + i by omega] at this
    exact ⟨v :: vs, by simp [Memory.readRange, hvs, (show m.read a = some v from hv)], by simp [hl]⟩

/-- What a range read says of every element. -/
theorem Memory.readRange_some {m : Memory α} {a n : Nat} {vs : List α} (h : m.readRange a n = some vs) :
    vs.length = n ∧ ∀ i, i < n → m.read (a + i) = vs[i]? := by
  induction n generalizing a vs with
  | zero => simp [Memory.readRange] at h; simp [← h]
  | succ n ih =>
    rw [Memory.readRange] at h
    split at h
    case h_1 v ws hv hws =>
      obtain rfl : v :: ws = vs := by simpa using h
      obtain ⟨hl, hr⟩ := ih hws
      refine ⟨by simp [hl], fun i hi => ?_⟩
      cases i with
      | zero => simpa using hv
      | succ i => simpa [show a + 1 + i = a + (i + 1) by omega] using hr i (by omega)
    case h_2 => simp at h

theorem Memory.read_isSome_iff (m : Memory α) (a : Nat) : (m.read a).isSome ↔ a ∈ m.map Prod.fst := by
  induction m with
  | nil => simp [Memory.read]
  | cons c m ih =>
    obtain ⟨b, v⟩ := c
    unfold Memory.read at ih ⊢
    by_cases h : a = b
    · simp [h]
    · simp [List.lookup_cons, show (a == b) = false by simpa using h, ih, h]

/-- A buffer filled at `0 .. n-1` reads whole up to `k <= n`. -/
theorem Memory.readRange_of_keys {m : Memory α} {n k : Nat} (h : m.map Prod.fst = List.range n) (hk : k ≤ n) :
    ∃ vs, m.readRange 0 k = some vs ∧ vs.length = k :=
  Memory.readRange_isSome m 0 k fun i hi => by
    rw [Memory.read_isSome_iff, h]
    exact List.mem_range.2 (by omega)

end Sys2Proof.Machine
end

