-- ==== Sys2Proof/Laws/State.lean ====
section
/-!
SUPPORT. One lemma per field per named update of the state, so that no later proof unfolds a record update.
-/

namespace Sys2Proof.Machine

variable (s : State)

/-! ### `State.advance` -/

@[simp] theorem State.advance_cur (m : Nat) : (s.advance m).cur = s.cur + m := rfl
@[simp] theorem State.advance_phase (m : Nat) : (s.advance m).phase = s.phase := rfl
@[simp] theorem State.advance_th (m : Nat) : (s.advance m).th = s.th := rfl
@[simp] theorem State.advance_tw (m : Nat) : (s.advance m).tw = s.tw := rfl
@[simp] theorem State.advance_ord (m : Nat) : (s.advance m).ord = s.ord := rfl
@[simp] theorem State.advance_mode (m : Nat) : (s.advance m).mode = s.mode := rfl
@[simp] theorem State.advance_isRun (m : Nat) : (s.advance m).isRun = s.isRun := rfl
@[simp] theorem State.advance_total (m : Nat) : (s.advance m).total = s.total := rfl
@[simp] theorem State.advance_cnt (m : Nat) : (s.advance m).cnt = s.cnt := rfl
@[simp] theorem State.advance_err (m : Nat) : (s.advance m).err = s.err := rfl
@[simp] theorem State.advance_k (m : Nat) : (s.advance m).k = s.k := rfl
@[simp] theorem State.advance_pv (m : Nat) : (s.advance m).pv = s.pv := rfl
@[simp] theorem State.advance_rv (m : Nat) : (s.advance m).rv = s.rv := rfl
@[simp] theorem State.advance_n (m : Nat) : (s.advance m).n = s.n := rfl
@[simp] theorem State.advance_planeP (m : Nat) : (s.advance m).planeP = s.planeP := rfl
@[simp] theorem State.advance_planeS (m : Nat) : (s.advance m).planeS = s.planeS := rfl
@[simp] theorem State.advance_pix (m : Nat) : (s.advance m).pix = s.pix := rfl
@[simp] theorem State.advance_canvas (m : Nat) : (s.advance m).canvas = s.canvas := rfl
@[simp] theorem State.advance_launch (m : Nat) : (s.advance m).launch = s.launch := rfl
@[simp] theorem State.advance_pending (m : Nat) : (s.advance m).pending = s.pending := rfl
@[simp] theorem State.advance_fresh (m : Nat) : (s.advance m).fresh = s.fresh := rfl
@[simp] theorem State.advance_len (m : Nat) : (s.advance m).len = s.len := rfl

/-! ### `State.setPhase` -/

@[simp] theorem State.setPhase_cur (p : Phase) : (s.setPhase p).cur = s.cur := rfl
@[simp] theorem State.setPhase_phase (p : Phase) : (s.setPhase p).phase = p := rfl
@[simp] theorem State.setPhase_th (p : Phase) : (s.setPhase p).th = s.th := rfl
@[simp] theorem State.setPhase_tw (p : Phase) : (s.setPhase p).tw = s.tw := rfl
@[simp] theorem State.setPhase_ord (p : Phase) : (s.setPhase p).ord = s.ord := rfl
@[simp] theorem State.setPhase_mode (p : Phase) : (s.setPhase p).mode = s.mode := rfl
@[simp] theorem State.setPhase_isRun (p : Phase) : (s.setPhase p).isRun = s.isRun := rfl
@[simp] theorem State.setPhase_total (p : Phase) : (s.setPhase p).total = s.total := rfl
@[simp] theorem State.setPhase_cnt (p : Phase) : (s.setPhase p).cnt = s.cnt := rfl
@[simp] theorem State.setPhase_err (p : Phase) : (s.setPhase p).err = s.err := rfl
@[simp] theorem State.setPhase_k (p : Phase) : (s.setPhase p).k = s.k := rfl
@[simp] theorem State.setPhase_pv (p : Phase) : (s.setPhase p).pv = s.pv := rfl
@[simp] theorem State.setPhase_rv (p : Phase) : (s.setPhase p).rv = s.rv := rfl
@[simp] theorem State.setPhase_n (p : Phase) : (s.setPhase p).n = s.n := rfl
@[simp] theorem State.setPhase_planeP (p : Phase) : (s.setPhase p).planeP = s.planeP := rfl
@[simp] theorem State.setPhase_planeS (p : Phase) : (s.setPhase p).planeS = s.planeS := rfl
@[simp] theorem State.setPhase_pix (p : Phase) : (s.setPhase p).pix = s.pix := rfl
@[simp] theorem State.setPhase_canvas (p : Phase) : (s.setPhase p).canvas = s.canvas := rfl
@[simp] theorem State.setPhase_launch (p : Phase) : (s.setPhase p).launch = s.launch := rfl
@[simp] theorem State.setPhase_pending (p : Phase) : (s.setPhase p).pending = s.pending := rfl
@[simp] theorem State.setPhase_fresh (p : Phase) : (s.setPhase p).fresh = s.fresh := rfl
@[simp] theorem State.setPhase_len (p : Phase) : (s.setPhase p).len = s.len := rfl

/-! ### `State.setDims` -/

@[simp] theorem State.setDims_cur (h w : BitVec 4) (t : BitVec 11) : (s.setDims h w t).cur = s.cur := rfl
@[simp] theorem State.setDims_phase (h w : BitVec 4) (t : BitVec 11) : (s.setDims h w t).phase = s.phase := rfl
@[simp] theorem State.setDims_th (h w : BitVec 4) (t : BitVec 11) : (s.setDims h w t).th = h := rfl
@[simp] theorem State.setDims_tw (h w : BitVec 4) (t : BitVec 11) : (s.setDims h w t).tw = w := rfl
@[simp] theorem State.setDims_ord (h w : BitVec 4) (t : BitVec 11) : (s.setDims h w t).ord = s.ord := rfl
@[simp] theorem State.setDims_mode (h w : BitVec 4) (t : BitVec 11) : (s.setDims h w t).mode = s.mode := rfl
@[simp] theorem State.setDims_isRun (h w : BitVec 4) (t : BitVec 11) : (s.setDims h w t).isRun = s.isRun := rfl
@[simp] theorem State.setDims_total (h w : BitVec 4) (t : BitVec 11) : (s.setDims h w t).total = t := rfl
@[simp] theorem State.setDims_cnt (h w : BitVec 4) (t : BitVec 11) : (s.setDims h w t).cnt = s.cnt := rfl
@[simp] theorem State.setDims_err (h w : BitVec 4) (t : BitVec 11) : (s.setDims h w t).err = s.err := rfl
@[simp] theorem State.setDims_k (h w : BitVec 4) (t : BitVec 11) : (s.setDims h w t).k = s.k := rfl
@[simp] theorem State.setDims_pv (h w : BitVec 4) (t : BitVec 11) : (s.setDims h w t).pv = s.pv := rfl
@[simp] theorem State.setDims_rv (h w : BitVec 4) (t : BitVec 11) : (s.setDims h w t).rv = s.rv := rfl
@[simp] theorem State.setDims_n (h w : BitVec 4) (t : BitVec 11) : (s.setDims h w t).n = s.n := rfl
@[simp] theorem State.setDims_planeP (h w : BitVec 4) (t : BitVec 11) : (s.setDims h w t).planeP = s.planeP := rfl
@[simp] theorem State.setDims_planeS (h w : BitVec 4) (t : BitVec 11) : (s.setDims h w t).planeS = s.planeS := rfl
@[simp] theorem State.setDims_pix (h w : BitVec 4) (t : BitVec 11) : (s.setDims h w t).pix = s.pix := rfl
@[simp] theorem State.setDims_canvas (h w : BitVec 4) (t : BitVec 11) : (s.setDims h w t).canvas = s.canvas := rfl
@[simp] theorem State.setDims_launch (h w : BitVec 4) (t : BitVec 11) : (s.setDims h w t).launch = s.launch := rfl
@[simp] theorem State.setDims_pending (h w : BitVec 4) (t : BitVec 11) : (s.setDims h w t).pending = s.pending := rfl
@[simp] theorem State.setDims_fresh (h w : BitVec 4) (t : BitVec 11) : (s.setDims h w t).fresh = s.fresh := rfl
@[simp] theorem State.setDims_len (h w : BitVec 4) (t : BitVec 11) : (s.setDims h w t).len = s.len := rfl

/-! ### `State.setOrd` -/

@[simp] theorem State.setOrd_cur (f : Bit) : (s.setOrd f).cur = s.cur := rfl
@[simp] theorem State.setOrd_phase (f : Bit) : (s.setOrd f).phase = s.phase := rfl
@[simp] theorem State.setOrd_th (f : Bit) : (s.setOrd f).th = s.th := rfl
@[simp] theorem State.setOrd_tw (f : Bit) : (s.setOrd f).tw = s.tw := rfl
@[simp] theorem State.setOrd_ord (f : Bit) : (s.setOrd f).ord = f := rfl
@[simp] theorem State.setOrd_mode (f : Bit) : (s.setOrd f).mode = s.mode := rfl
@[simp] theorem State.setOrd_isRun (f : Bit) : (s.setOrd f).isRun = s.isRun := rfl
@[simp] theorem State.setOrd_total (f : Bit) : (s.setOrd f).total = s.total := rfl
@[simp] theorem State.setOrd_cnt (f : Bit) : (s.setOrd f).cnt = s.cnt := rfl
@[simp] theorem State.setOrd_err (f : Bit) : (s.setOrd f).err = s.err := rfl
@[simp] theorem State.setOrd_k (f : Bit) : (s.setOrd f).k = s.k := rfl
@[simp] theorem State.setOrd_pv (f : Bit) : (s.setOrd f).pv = s.pv := rfl
@[simp] theorem State.setOrd_rv (f : Bit) : (s.setOrd f).rv = s.rv := rfl
@[simp] theorem State.setOrd_n (f : Bit) : (s.setOrd f).n = s.n := rfl
@[simp] theorem State.setOrd_planeP (f : Bit) : (s.setOrd f).planeP = s.planeP := rfl
@[simp] theorem State.setOrd_planeS (f : Bit) : (s.setOrd f).planeS = s.planeS := rfl
@[simp] theorem State.setOrd_pix (f : Bit) : (s.setOrd f).pix = s.pix := rfl
@[simp] theorem State.setOrd_canvas (f : Bit) : (s.setOrd f).canvas = s.canvas := rfl
@[simp] theorem State.setOrd_launch (f : Bit) : (s.setOrd f).launch = s.launch := rfl
@[simp] theorem State.setOrd_pending (f : Bit) : (s.setOrd f).pending = s.pending := rfl
@[simp] theorem State.setOrd_fresh (f : Bit) : (s.setOrd f).fresh = s.fresh := rfl
@[simp] theorem State.setOrd_len (f : Bit) : (s.setOrd f).len = s.len := rfl

/-! ### `State.setMode` -/

@[simp] theorem State.setMode_cur (m : BitVec 2) : (s.setMode m).cur = s.cur := rfl
@[simp] theorem State.setMode_phase (m : BitVec 2) : (s.setMode m).phase = s.phase := rfl
@[simp] theorem State.setMode_th (m : BitVec 2) : (s.setMode m).th = s.th := rfl
@[simp] theorem State.setMode_tw (m : BitVec 2) : (s.setMode m).tw = s.tw := rfl
@[simp] theorem State.setMode_ord (m : BitVec 2) : (s.setMode m).ord = s.ord := rfl
@[simp] theorem State.setMode_mode (m : BitVec 2) : (s.setMode m).mode = m := rfl
@[simp] theorem State.setMode_isRun (m : BitVec 2) : (s.setMode m).isRun = s.isRun := rfl
@[simp] theorem State.setMode_total (m : BitVec 2) : (s.setMode m).total = s.total := rfl
@[simp] theorem State.setMode_cnt (m : BitVec 2) : (s.setMode m).cnt = s.cnt := rfl
@[simp] theorem State.setMode_err (m : BitVec 2) : (s.setMode m).err = s.err := rfl
@[simp] theorem State.setMode_k (m : BitVec 2) : (s.setMode m).k = s.k := rfl
@[simp] theorem State.setMode_pv (m : BitVec 2) : (s.setMode m).pv = s.pv := rfl
@[simp] theorem State.setMode_rv (m : BitVec 2) : (s.setMode m).rv = s.rv := rfl
@[simp] theorem State.setMode_n (m : BitVec 2) : (s.setMode m).n = s.n := rfl
@[simp] theorem State.setMode_planeP (m : BitVec 2) : (s.setMode m).planeP = s.planeP := rfl
@[simp] theorem State.setMode_planeS (m : BitVec 2) : (s.setMode m).planeS = s.planeS := rfl
@[simp] theorem State.setMode_pix (m : BitVec 2) : (s.setMode m).pix = s.pix := rfl
@[simp] theorem State.setMode_canvas (m : BitVec 2) : (s.setMode m).canvas = s.canvas := rfl
@[simp] theorem State.setMode_launch (m : BitVec 2) : (s.setMode m).launch = s.launch := rfl
@[simp] theorem State.setMode_pending (m : BitVec 2) : (s.setMode m).pending = s.pending := rfl
@[simp] theorem State.setMode_fresh (m : BitVec 2) : (s.setMode m).fresh = s.fresh := rfl
@[simp] theorem State.setMode_len (m : BitVec 2) : (s.setMode m).len = s.len := rfl

/-! ### `State.setIsRun` -/

@[simp] theorem State.setIsRun_cur (b : Bit) : (s.setIsRun b).cur = s.cur := rfl
@[simp] theorem State.setIsRun_phase (b : Bit) : (s.setIsRun b).phase = s.phase := rfl
@[simp] theorem State.setIsRun_th (b : Bit) : (s.setIsRun b).th = s.th := rfl
@[simp] theorem State.setIsRun_tw (b : Bit) : (s.setIsRun b).tw = s.tw := rfl
@[simp] theorem State.setIsRun_ord (b : Bit) : (s.setIsRun b).ord = s.ord := rfl
@[simp] theorem State.setIsRun_mode (b : Bit) : (s.setIsRun b).mode = s.mode := rfl
@[simp] theorem State.setIsRun_isRun (b : Bit) : (s.setIsRun b).isRun = b := rfl
@[simp] theorem State.setIsRun_total (b : Bit) : (s.setIsRun b).total = s.total := rfl
@[simp] theorem State.setIsRun_cnt (b : Bit) : (s.setIsRun b).cnt = s.cnt := rfl
@[simp] theorem State.setIsRun_err (b : Bit) : (s.setIsRun b).err = s.err := rfl
@[simp] theorem State.setIsRun_k (b : Bit) : (s.setIsRun b).k = s.k := rfl
@[simp] theorem State.setIsRun_pv (b : Bit) : (s.setIsRun b).pv = s.pv := rfl
@[simp] theorem State.setIsRun_rv (b : Bit) : (s.setIsRun b).rv = s.rv := rfl
@[simp] theorem State.setIsRun_n (b : Bit) : (s.setIsRun b).n = s.n := rfl
@[simp] theorem State.setIsRun_planeP (b : Bit) : (s.setIsRun b).planeP = s.planeP := rfl
@[simp] theorem State.setIsRun_planeS (b : Bit) : (s.setIsRun b).planeS = s.planeS := rfl
@[simp] theorem State.setIsRun_pix (b : Bit) : (s.setIsRun b).pix = s.pix := rfl
@[simp] theorem State.setIsRun_canvas (b : Bit) : (s.setIsRun b).canvas = s.canvas := rfl
@[simp] theorem State.setIsRun_launch (b : Bit) : (s.setIsRun b).launch = s.launch := rfl
@[simp] theorem State.setIsRun_pending (b : Bit) : (s.setIsRun b).pending = s.pending := rfl
@[simp] theorem State.setIsRun_fresh (b : Bit) : (s.setIsRun b).fresh = s.fresh := rfl
@[simp] theorem State.setIsRun_len (b : Bit) : (s.setIsRun b).len = s.len := rfl

/-! ### `State.setCnt` -/

@[simp] theorem State.setCnt_cur (c : BitVec 11) : (s.setCnt c).cur = s.cur := rfl
@[simp] theorem State.setCnt_phase (c : BitVec 11) : (s.setCnt c).phase = s.phase := rfl
@[simp] theorem State.setCnt_th (c : BitVec 11) : (s.setCnt c).th = s.th := rfl
@[simp] theorem State.setCnt_tw (c : BitVec 11) : (s.setCnt c).tw = s.tw := rfl
@[simp] theorem State.setCnt_ord (c : BitVec 11) : (s.setCnt c).ord = s.ord := rfl
@[simp] theorem State.setCnt_mode (c : BitVec 11) : (s.setCnt c).mode = s.mode := rfl
@[simp] theorem State.setCnt_isRun (c : BitVec 11) : (s.setCnt c).isRun = s.isRun := rfl
@[simp] theorem State.setCnt_total (c : BitVec 11) : (s.setCnt c).total = s.total := rfl
@[simp] theorem State.setCnt_cnt (c : BitVec 11) : (s.setCnt c).cnt = c := rfl
@[simp] theorem State.setCnt_err (c : BitVec 11) : (s.setCnt c).err = s.err := rfl
@[simp] theorem State.setCnt_k (c : BitVec 11) : (s.setCnt c).k = s.k := rfl
@[simp] theorem State.setCnt_pv (c : BitVec 11) : (s.setCnt c).pv = s.pv := rfl
@[simp] theorem State.setCnt_rv (c : BitVec 11) : (s.setCnt c).rv = s.rv := rfl
@[simp] theorem State.setCnt_n (c : BitVec 11) : (s.setCnt c).n = s.n := rfl
@[simp] theorem State.setCnt_planeP (c : BitVec 11) : (s.setCnt c).planeP = s.planeP := rfl
@[simp] theorem State.setCnt_planeS (c : BitVec 11) : (s.setCnt c).planeS = s.planeS := rfl
@[simp] theorem State.setCnt_pix (c : BitVec 11) : (s.setCnt c).pix = s.pix := rfl
@[simp] theorem State.setCnt_canvas (c : BitVec 11) : (s.setCnt c).canvas = s.canvas := rfl
@[simp] theorem State.setCnt_launch (c : BitVec 11) : (s.setCnt c).launch = s.launch := rfl
@[simp] theorem State.setCnt_pending (c : BitVec 11) : (s.setCnt c).pending = s.pending := rfl
@[simp] theorem State.setCnt_fresh (c : BitVec 11) : (s.setCnt c).fresh = s.fresh := rfl
@[simp] theorem State.setCnt_len (c : BitVec 11) : (s.setCnt c).len = s.len := rfl

/-! ### `State.setVarint` -/

@[simp] theorem State.setVarint_cur (k' pv' rv' n' : Nat) : (s.setVarint k' pv' rv' n').cur = s.cur := rfl
@[simp] theorem State.setVarint_phase (k' pv' rv' n' : Nat) : (s.setVarint k' pv' rv' n').phase = s.phase := rfl
@[simp] theorem State.setVarint_th (k' pv' rv' n' : Nat) : (s.setVarint k' pv' rv' n').th = s.th := rfl
@[simp] theorem State.setVarint_tw (k' pv' rv' n' : Nat) : (s.setVarint k' pv' rv' n').tw = s.tw := rfl
@[simp] theorem State.setVarint_ord (k' pv' rv' n' : Nat) : (s.setVarint k' pv' rv' n').ord = s.ord := rfl
@[simp] theorem State.setVarint_mode (k' pv' rv' n' : Nat) : (s.setVarint k' pv' rv' n').mode = s.mode := rfl
@[simp] theorem State.setVarint_isRun (k' pv' rv' n' : Nat) : (s.setVarint k' pv' rv' n').isRun = s.isRun := rfl
@[simp] theorem State.setVarint_total (k' pv' rv' n' : Nat) : (s.setVarint k' pv' rv' n').total = s.total := rfl
@[simp] theorem State.setVarint_cnt (k' pv' rv' n' : Nat) : (s.setVarint k' pv' rv' n').cnt = s.cnt := rfl
@[simp] theorem State.setVarint_err (k' pv' rv' n' : Nat) : (s.setVarint k' pv' rv' n').err = s.err := rfl
@[simp] theorem State.setVarint_k (k' pv' rv' n' : Nat) : (s.setVarint k' pv' rv' n').k = k' := rfl
@[simp] theorem State.setVarint_pv (k' pv' rv' n' : Nat) : (s.setVarint k' pv' rv' n').pv = pv' := rfl
@[simp] theorem State.setVarint_rv (k' pv' rv' n' : Nat) : (s.setVarint k' pv' rv' n').rv = rv' := rfl
@[simp] theorem State.setVarint_n (k' pv' rv' n' : Nat) : (s.setVarint k' pv' rv' n').n = n' := rfl
@[simp] theorem State.setVarint_planeP (k' pv' rv' n' : Nat) : (s.setVarint k' pv' rv' n').planeP = s.planeP := rfl
@[simp] theorem State.setVarint_planeS (k' pv' rv' n' : Nat) : (s.setVarint k' pv' rv' n').planeS = s.planeS := rfl
@[simp] theorem State.setVarint_pix (k' pv' rv' n' : Nat) : (s.setVarint k' pv' rv' n').pix = s.pix := rfl
@[simp] theorem State.setVarint_canvas (k' pv' rv' n' : Nat) : (s.setVarint k' pv' rv' n').canvas = s.canvas := rfl
@[simp] theorem State.setVarint_launch (k' pv' rv' n' : Nat) : (s.setVarint k' pv' rv' n').launch = s.launch := rfl
@[simp] theorem State.setVarint_pending (k' pv' rv' n' : Nat) : (s.setVarint k' pv' rv' n').pending = s.pending := rfl
@[simp] theorem State.setVarint_fresh (k' pv' rv' n' : Nat) : (s.setVarint k' pv' rv' n').fresh = s.fresh := rfl
@[simp] theorem State.setVarint_len (k' pv' rv' n' : Nat) : (s.setVarint k' pv' rv' n').len = s.len := rfl

/-! ### `State.writePix` -/

@[simp] theorem State.writePix_cur (xs : List Pixel) : (s.writePix xs).cur = s.cur := rfl
@[simp] theorem State.writePix_phase (xs : List Pixel) : (s.writePix xs).phase = s.phase := rfl
@[simp] theorem State.writePix_th (xs : List Pixel) : (s.writePix xs).th = s.th := rfl
@[simp] theorem State.writePix_tw (xs : List Pixel) : (s.writePix xs).tw = s.tw := rfl
@[simp] theorem State.writePix_ord (xs : List Pixel) : (s.writePix xs).ord = s.ord := rfl
@[simp] theorem State.writePix_mode (xs : List Pixel) : (s.writePix xs).mode = s.mode := rfl
@[simp] theorem State.writePix_isRun (xs : List Pixel) : (s.writePix xs).isRun = s.isRun := rfl
@[simp] theorem State.writePix_total (xs : List Pixel) : (s.writePix xs).total = s.total := rfl
@[simp] theorem State.writePix_cnt (xs : List Pixel) : (s.writePix xs).cnt = s.cnt := rfl
@[simp] theorem State.writePix_err (xs : List Pixel) : (s.writePix xs).err = s.err := rfl
@[simp] theorem State.writePix_k (xs : List Pixel) : (s.writePix xs).k = s.k := rfl
@[simp] theorem State.writePix_pv (xs : List Pixel) : (s.writePix xs).pv = s.pv := rfl
@[simp] theorem State.writePix_rv (xs : List Pixel) : (s.writePix xs).rv = s.rv := rfl
@[simp] theorem State.writePix_n (xs : List Pixel) : (s.writePix xs).n = s.n := rfl
@[simp] theorem State.writePix_planeP (xs : List Pixel) : (s.writePix xs).planeP = s.planeP := rfl
@[simp] theorem State.writePix_planeS (xs : List Pixel) : (s.writePix xs).planeS = s.planeS := rfl
@[simp] theorem State.writePix_pix (xs : List Pixel) : (s.writePix xs).pix = s.pix.write 0 xs := rfl
@[simp] theorem State.writePix_canvas (xs : List Pixel) : (s.writePix xs).canvas = s.canvas := rfl
@[simp] theorem State.writePix_launch (xs : List Pixel) : (s.writePix xs).launch = s.launch := rfl
@[simp] theorem State.writePix_pending (xs : List Pixel) : (s.writePix xs).pending = s.pending := rfl
@[simp] theorem State.writePix_fresh (xs : List Pixel) : (s.writePix xs).fresh = s.fresh := rfl
@[simp] theorem State.writePix_len (xs : List Pixel) : (s.writePix xs).len = s.len := rfl

/-! ### `State.writeCanvas` -/

@[simp] theorem State.writeCanvas_cur (g : List Pixel) : (s.writeCanvas g).cur = s.cur := rfl
@[simp] theorem State.writeCanvas_phase (g : List Pixel) : (s.writeCanvas g).phase = s.phase := rfl
@[simp] theorem State.writeCanvas_th (g : List Pixel) : (s.writeCanvas g).th = s.th := rfl
@[simp] theorem State.writeCanvas_tw (g : List Pixel) : (s.writeCanvas g).tw = s.tw := rfl
@[simp] theorem State.writeCanvas_ord (g : List Pixel) : (s.writeCanvas g).ord = s.ord := rfl
@[simp] theorem State.writeCanvas_mode (g : List Pixel) : (s.writeCanvas g).mode = s.mode := rfl
@[simp] theorem State.writeCanvas_isRun (g : List Pixel) : (s.writeCanvas g).isRun = s.isRun := rfl
@[simp] theorem State.writeCanvas_total (g : List Pixel) : (s.writeCanvas g).total = s.total := rfl
@[simp] theorem State.writeCanvas_cnt (g : List Pixel) : (s.writeCanvas g).cnt = s.cnt := rfl
@[simp] theorem State.writeCanvas_err (g : List Pixel) : (s.writeCanvas g).err = s.err := rfl
@[simp] theorem State.writeCanvas_k (g : List Pixel) : (s.writeCanvas g).k = s.k := rfl
@[simp] theorem State.writeCanvas_pv (g : List Pixel) : (s.writeCanvas g).pv = s.pv := rfl
@[simp] theorem State.writeCanvas_rv (g : List Pixel) : (s.writeCanvas g).rv = s.rv := rfl
@[simp] theorem State.writeCanvas_n (g : List Pixel) : (s.writeCanvas g).n = s.n := rfl
@[simp] theorem State.writeCanvas_planeP (g : List Pixel) : (s.writeCanvas g).planeP = s.planeP := rfl
@[simp] theorem State.writeCanvas_planeS (g : List Pixel) : (s.writeCanvas g).planeS = s.planeS := rfl
@[simp] theorem State.writeCanvas_pix (g : List Pixel) : (s.writeCanvas g).pix = s.pix := rfl
@[simp] theorem State.writeCanvas_canvas (g : List Pixel) : (s.writeCanvas g).canvas = s.canvas.write 0 g := rfl
@[simp] theorem State.writeCanvas_launch (g : List Pixel) : (s.writeCanvas g).launch = s.launch := rfl
@[simp] theorem State.writeCanvas_pending (g : List Pixel) : (s.writeCanvas g).pending = s.pending := rfl
@[simp] theorem State.writeCanvas_fresh (g : List Pixel) : (s.writeCanvas g).fresh = s.fresh := rfl
@[simp] theorem State.writeCanvas_len (g : List Pixel) : (s.writeCanvas g).len = s.len := rfl

/-! ### `State.writePlane` -/

@[simp] theorem State.writePlane_cur (a : Nat) (bs : Bits) : (s.writePlane a bs).cur = s.cur := by
  cases s with | mk _ phase => cases phase <;> rfl
@[simp] theorem State.writePlane_phase (a : Nat) (bs : Bits) : (s.writePlane a bs).phase = s.phase := by
  cases s with | mk _ phase => cases phase <;> rfl
@[simp] theorem State.writePlane_th (a : Nat) (bs : Bits) : (s.writePlane a bs).th = s.th := by
  cases s with | mk _ phase => cases phase <;> rfl
@[simp] theorem State.writePlane_tw (a : Nat) (bs : Bits) : (s.writePlane a bs).tw = s.tw := by
  cases s with | mk _ phase => cases phase <;> rfl
@[simp] theorem State.writePlane_ord (a : Nat) (bs : Bits) : (s.writePlane a bs).ord = s.ord := by
  cases s with | mk _ phase => cases phase <;> rfl
@[simp] theorem State.writePlane_mode (a : Nat) (bs : Bits) : (s.writePlane a bs).mode = s.mode := by
  cases s with | mk _ phase => cases phase <;> rfl
@[simp] theorem State.writePlane_isRun (a : Nat) (bs : Bits) : (s.writePlane a bs).isRun = s.isRun := by
  cases s with | mk _ phase => cases phase <;> rfl
@[simp] theorem State.writePlane_total (a : Nat) (bs : Bits) : (s.writePlane a bs).total = s.total := by
  cases s with | mk _ phase => cases phase <;> rfl
@[simp] theorem State.writePlane_cnt (a : Nat) (bs : Bits) : (s.writePlane a bs).cnt = s.cnt := by
  cases s with | mk _ phase => cases phase <;> rfl
@[simp] theorem State.writePlane_err (a : Nat) (bs : Bits) : (s.writePlane a bs).err = s.err := by
  cases s with | mk _ phase => cases phase <;> rfl
@[simp] theorem State.writePlane_k (a : Nat) (bs : Bits) : (s.writePlane a bs).k = s.k := by
  cases s with | mk _ phase => cases phase <;> rfl
@[simp] theorem State.writePlane_pv (a : Nat) (bs : Bits) : (s.writePlane a bs).pv = s.pv := by
  cases s with | mk _ phase => cases phase <;> rfl
@[simp] theorem State.writePlane_rv (a : Nat) (bs : Bits) : (s.writePlane a bs).rv = s.rv := by
  cases s with | mk _ phase => cases phase <;> rfl
@[simp] theorem State.writePlane_n (a : Nat) (bs : Bits) : (s.writePlane a bs).n = s.n := by
  cases s with | mk _ phase => cases phase <;> rfl
@[simp] theorem State.writePlane_pix (a : Nat) (bs : Bits) : (s.writePlane a bs).pix = s.pix := by
  cases s with | mk _ phase => cases phase <;> rfl
@[simp] theorem State.writePlane_canvas (a : Nat) (bs : Bits) : (s.writePlane a bs).canvas = s.canvas := by
  cases s with | mk _ phase => cases phase <;> rfl
@[simp] theorem State.writePlane_launch (a : Nat) (bs : Bits) : (s.writePlane a bs).launch = s.launch := by
  cases s with | mk _ phase => cases phase <;> rfl
@[simp] theorem State.writePlane_pending (a : Nat) (bs : Bits) : (s.writePlane a bs).pending = s.pending := by
  cases s with | mk _ phase => cases phase <;> rfl
@[simp] theorem State.writePlane_fresh (a : Nat) (bs : Bits) : (s.writePlane a bs).fresh = s.fresh := by
  cases s with | mk _ phase => cases phase <;> rfl
@[simp] theorem State.writePlane_len (a : Nat) (bs : Bits) : (s.writePlane a bs).len = s.len := by
  cases s with | mk _ phase => cases phase <;> rfl

theorem State.writePlane_secondary (a : Nat) (bs : Bits) (h : s.phase = .planeS) :
    s.writePlane a bs = { s with planeS := s.planeS.write a bs } := by
  simp [State.writePlane, h]

theorem State.writePlane_primary (a : Nat) (bs : Bits) (h : s.phase ≠ .planeS) :
    s.writePlane a bs = { s with planeP := s.planeP.write a bs } := by
  unfold State.writePlane
  split
  · contradiction
  · rfl

/-! ### `State.emit` -/

@[simp] theorem State.emit_cur (ps : List Pair) : (s.emit ps).cur = s.cur := by simp [State.emit]
@[simp] theorem State.emit_phase (ps : List Pair) : (s.emit ps).phase = s.phase := by simp [State.emit]
@[simp] theorem State.emit_th (ps : List Pair) : (s.emit ps).th = s.th := by simp [State.emit]
@[simp] theorem State.emit_tw (ps : List Pair) : (s.emit ps).tw = s.tw := by simp [State.emit]
@[simp] theorem State.emit_ord (ps : List Pair) : (s.emit ps).ord = s.ord := by simp [State.emit]
@[simp] theorem State.emit_mode (ps : List Pair) : (s.emit ps).mode = s.mode := by simp [State.emit]
@[simp] theorem State.emit_isRun (ps : List Pair) : (s.emit ps).isRun = s.isRun := by simp [State.emit]
@[simp] theorem State.emit_total (ps : List Pair) : (s.emit ps).total = s.total := by simp [State.emit]
@[simp] theorem State.emit_cnt (ps : List Pair) : (s.emit ps).cnt = s.cnt + BitVec.ofNat 11 ps.length := by simp [State.emit]
@[simp] theorem State.emit_err (ps : List Pair) : (s.emit ps).err = s.err := by simp [State.emit]
@[simp] theorem State.emit_k (ps : List Pair) : (s.emit ps).k = s.k := by simp [State.emit]
@[simp] theorem State.emit_pv (ps : List Pair) : (s.emit ps).pv = s.pv := by simp [State.emit]
@[simp] theorem State.emit_rv (ps : List Pair) : (s.emit ps).rv = s.rv := by simp [State.emit]
@[simp] theorem State.emit_n (ps : List Pair) : (s.emit ps).n = s.n := by simp [State.emit]
@[simp] theorem State.emit_pix (ps : List Pair) : (s.emit ps).pix = s.pix := by simp [State.emit]
@[simp] theorem State.emit_canvas (ps : List Pair) : (s.emit ps).canvas = s.canvas := by simp [State.emit]
@[simp] theorem State.emit_launch (ps : List Pair) : (s.emit ps).launch = s.launch := by simp [State.emit]
@[simp] theorem State.emit_pending (ps : List Pair) : (s.emit ps).pending = s.pending := by simp [State.emit]
@[simp] theorem State.emit_fresh (ps : List Pair) : (s.emit ps).fresh = s.fresh := by simp [State.emit]
@[simp] theorem State.emit_len (ps : List Pair) : (s.emit ps).len = s.len := by simp [State.emit]

theorem State.emit_planeP (ps : List Pair) : (s.emit ps).planeP =
    if s.phase = .planeS then s.planeP else s.planeP.write (2 * s.cnt.toNat) (ps.flatMap pairBits) := by
  by_cases h : s.phase = .planeS
  · simp [State.emit, s.writePlane_secondary _ _ h, h]
  · simp [State.emit, s.writePlane_primary _ _ h, h]

theorem State.emit_planeS (ps : List Pair) : (s.emit ps).planeS =
    if s.phase = .planeS then s.planeS.write (2 * s.cnt.toNat) (ps.flatMap pairBits) else s.planeS := by
  by_cases h : s.phase = .planeS
  · simp [State.emit, s.writePlane_secondary _ _ h, h]
  · simp [State.emit, s.writePlane_primary _ _ h, h]

/-! ### `State.completePlane` -/

@[simp] theorem State.completePlane_cur : s.completePlane.cur = s.cur := by
  unfold State.completePlane; split <;> rfl
@[simp] theorem State.completePlane_th : s.completePlane.th = s.th := by
  unfold State.completePlane; split <;> rfl
@[simp] theorem State.completePlane_tw : s.completePlane.tw = s.tw := by
  unfold State.completePlane; split <;> rfl
@[simp] theorem State.completePlane_ord : s.completePlane.ord = s.ord := by
  unfold State.completePlane; split <;> rfl
@[simp] theorem State.completePlane_mode : s.completePlane.mode = s.mode := by
  unfold State.completePlane; split <;> rfl
@[simp] theorem State.completePlane_isRun : s.completePlane.isRun = s.isRun := by
  unfold State.completePlane; split <;> rfl
@[simp] theorem State.completePlane_total : s.completePlane.total = s.total := by
  unfold State.completePlane; split <;> rfl
@[simp] theorem State.completePlane_cnt : s.completePlane.cnt = s.cnt := by
  unfold State.completePlane; split <;> rfl
@[simp] theorem State.completePlane_err : s.completePlane.err = s.err := by
  unfold State.completePlane; split <;> rfl
@[simp] theorem State.completePlane_k : s.completePlane.k = s.k := by
  unfold State.completePlane; split <;> rfl
@[simp] theorem State.completePlane_pv : s.completePlane.pv = s.pv := by
  unfold State.completePlane; split <;> rfl
@[simp] theorem State.completePlane_rv : s.completePlane.rv = s.rv := by
  unfold State.completePlane; split <;> rfl
@[simp] theorem State.completePlane_n : s.completePlane.n = s.n := by
  unfold State.completePlane; split <;> rfl
@[simp] theorem State.completePlane_planeP : s.completePlane.planeP = s.planeP := by
  unfold State.completePlane; split <;> rfl
@[simp] theorem State.completePlane_planeS : s.completePlane.planeS = s.planeS := by
  unfold State.completePlane; split <;> rfl
@[simp] theorem State.completePlane_pix : s.completePlane.pix = s.pix := by
  unfold State.completePlane; split <;> rfl
@[simp] theorem State.completePlane_canvas : s.completePlane.canvas = s.canvas := by
  unfold State.completePlane; split <;> rfl
@[simp] theorem State.completePlane_launch : s.completePlane.launch = s.launch := by
  unfold State.completePlane; split <;> rfl
@[simp] theorem State.completePlane_pending : s.completePlane.pending = s.pending := by
  unfold State.completePlane; split <;> rfl
@[simp] theorem State.completePlane_fresh : s.completePlane.fresh = s.fresh := by
  unfold State.completePlane; split <;> rfl
@[simp] theorem State.completePlane_len : s.completePlane.len = s.len := by
  unfold State.completePlane; split <;> rfl

theorem State.completePlane_phase : s.completePlane.phase =
    if s.cnt = s.total then phaseAfterPlane s.phase else s.phase := by
  by_cases h : s.cnt = s.total <;> simp [State.completePlane, planeComplete, h]

/-! ### `State.forget`, `State.raise`, `State.start` -/

@[simp] theorem State.forget_phase : s.forget.phase = s.phase := rfl
@[simp] theorem State.forget_err : s.forget.err = s.err := rfl
@[simp] theorem State.forget_launch : s.forget.launch = s.launch := rfl
@[simp] theorem State.forget_pending : s.forget.pending = s.pending := rfl
@[simp] theorem State.forget_len : s.forget.len = s.len := rfl
@[simp] theorem State.forget_planeP : s.forget.planeP = [] := rfl
@[simp] theorem State.forget_planeS : s.forget.planeS = [] := rfl
@[simp] theorem State.forget_pix : s.forget.pix = [] := rfl
@[simp] theorem State.forget_canvas : s.forget.canvas = [] := rfl
@[simp] theorem State.forget_fresh : s.forget.fresh = s.fresh + 1 := rfl
@[simp] theorem State.raise_phase (e : DecodeError) : (s.raise e).phase = .fault := rfl
@[simp] theorem State.raise_err (e : DecodeError) : (s.raise e).err = some e := rfl
@[simp] theorem State.raise_launch (e : DecodeError) : (s.raise e).launch = s.launch := rfl
@[simp] theorem State.raise_pending (e : DecodeError) : (s.raise e).pending = s.pending := rfl
@[simp] theorem State.raise_len (e : DecodeError) : (s.raise e).len = s.len := rfl
@[simp] theorem State.raise_planeP (e : DecodeError) : (s.raise e).planeP = [] := rfl
@[simp] theorem State.raise_planeS (e : DecodeError) : (s.raise e).planeS = [] := rfl
@[simp] theorem State.raise_pix (e : DecodeError) : (s.raise e).pix = [] := rfl
@[simp] theorem State.raise_canvas (e : DecodeError) : (s.raise e).canvas = [] := rfl
@[simp] theorem State.raise_fresh (e : DecodeError) : (s.raise e).fresh = s.fresh + 1 := rfl
@[simp] theorem State.start_phase (l : Launch) : (s.start l).phase = .hdr := rfl
@[simp] theorem State.start_err (l : Launch) : (s.start l).err = none := rfl
@[simp] theorem State.start_launch (l : Launch) : (s.start l).launch = l := rfl
@[simp] theorem State.start_pending (l : Launch) : (s.start l).pending = s.pending := rfl
@[simp] theorem State.start_cur (l : Launch) : (s.start l).cur = l.base := rfl
@[simp] theorem State.start_len (l : Launch) : (s.start l).len = l.input.length := rfl
@[simp] theorem State.start_planeP (l : Launch) : (s.start l).planeP = [] := rfl
@[simp] theorem State.start_planeS (l : Launch) : (s.start l).planeS = [] := rfl
@[simp] theorem State.start_pix (l : Launch) : (s.start l).pix = [] := rfl
@[simp] theorem State.start_canvas (l : Launch) : (s.start l).canvas = [] := rfl
@[simp] theorem State.start_fresh (l : Launch) : (s.start l).fresh = s.fresh + 1 := rfl

end Sys2Proof.Machine
end

