-- ==== Sys2Proof/Laws/Ops.lean ====
section
/-!
SUPPORT. What each shared operation can do, said once: the shape of a stream element, the contexts, and
the emission of pairs.
-/

namespace Sys2Proof.Machine

/-! ### The shape of a stream element -/

/-- An element that has a next state either took effect after advancing the cursor, or was cut by `LEN`. -/
theorem element_cases {c : Ctx} {n : Nat} {effect : State → StepResult} {s t : State}
    (h : element c n effect s = .next t) :
    contextOf s = some c ∧
      ((s.cur + n ≤ s.len ∧ effect (s.advance n) = .next t) ∨
        (s.len < s.cur + n ∧ t = s.raise c.exhaustion)) := by
  unfold element at h
  split at h
  case isTrue hc =>
    refine ⟨hc, ?_⟩
    split at h
    case isTrue hl => exact .inl ⟨hl, h⟩
    case isFalse hl => exact .inr ⟨by omega, (Host.Outcome.next.inj h).symm⟩
  case isFalse => cases h

theorem element_runs {c : Ctx} {n : Nat} {s : State} (effect : State → StepResult)
    (hc : contextOf s = some c) (hl : s.cur + n ≤ s.len) :
    element c n effect s = effect (s.advance n) := by
  simp [element, hc, hl]

theorem element_raises {c : Ctx} {n : Nat} {s : State} (effect : State → StepResult)
    (hc : contextOf s = some c) (hl : s.len < s.cur + n) :
    element c n effect s = .next (s.raise c.exhaustion) := by
  simp [element, hc, show ¬ s.cur + n ≤ s.len by omega]

/-! ### The context a state decodes -/

theorem contextOf_hdr {s : State} : contextOf s = some .hdr ↔ s.phase = .hdr := by
  cases h : s.phase <;> simp [contextOf, h] <;> split <;> simp

theorem contextOf_ordf {s : State} : contextOf s = some .ordf ↔ s.phase = .ordf := by
  cases h : s.phase <;> simp [contextOf, h] <;> split <;> simp

theorem contextOf_ptypeP {s : State} : contextOf s = some .ptypeP ↔ s.phase = .ptypeP := by
  cases h : s.phase <;> simp [contextOf, h] <;> split <;> simp

theorem contextOf_modef {s : State} : contextOf s = some .modef ↔ s.phase = .modef := by
  cases h : s.phase <;> simp [contextOf, h] <;> split <;> simp

theorem contextOf_ptypeS {s : State} : contextOf s = some .ptypeS ↔ s.phase = .ptypeS := by
  cases h : s.phase <;> simp [contextOf, h] <;> split <;> simp

theorem contextOf_run {s : State} : contextOf s = some .run ↔
    (s.phase = .planeP ∨ s.phase = .planeS) ∧ s.cnt < s.total ∧ s.isRun = true := by
  cases h : s.phase <;> simp [contextOf, h]

theorem contextOf_literal {s : State} : contextOf s = some .literal ↔
    (s.phase = .planeP ∨ s.phase = .planeS) ∧ s.cnt < s.total ∧ s.isRun = false := by
  cases h : s.phase <;> simp [contextOf, h]

/-- Where an element is decoded, a launch runs. -/
theorem running_of_contextOf {s : State} {c : Ctx} (h : contextOf s = some c) : stopped s = false := by
  cases hp : s.phase <;> simp [contextOf, hp] at h <;> simp [stopped, hp]

/-! ### Emitting pairs -/

/-- The emission that has a next state, and that state. -/
theorem emitPairs_cases {ps : List Pair} {b : Bit} {s t : State} (h : emitPairs ps b s = .next t) :
    2 * s.cnt.toNat + 2 * ps.length ≤ Config.maxPlaneBits ∧
      t = ((s.emit ps).setIsRun b).completePlane := by
  unfold emitPairs at h
  split at h
  case isTrue hi => exact ⟨by simpa [inSpace] using hi, (Host.Outcome.next.inj h).symm⟩
  case isFalse => cases h

theorem emitPairs_runs {ps : List Pair} {s : State} (b : Bit)
    (h : 2 * s.cnt.toNat + 2 * ps.length ≤ Config.maxPlaneBits) :
    emitPairs ps b s = .next ((s.emit ps).setIsRun b).completePlane := by
  simp [emitPairs, inSpace, h]

theorem pairBits_length (ps : List Pair) : (ps.flatMap pairBits).length = 2 * ps.length := by
  induction ps with
  | nil => rfl
  | cons p ps ih =>
    simp only [List.flatMap_cons, List.length_append, ih, pairBits, List.length_cons, List.length_nil]
    omega

/-- The bits of `m` zero-pairs. -/
theorem pairBits_zeros (m : Nat) : (List.replicate m 0#2).flatMap pairBits = List.replicate (2 * m) false := by
  induction m with
  | zero => rfl
  | succ m ih =>
    rw [List.replicate_succ, List.flatMap_cons, ih, show 2 * (m + 1) = 2 * m + 1 + 1 by omega,
      List.replicate_succ, List.replicate_succ]
    rfl

end Sys2Proof.Machine
end

