-- ==== Sys2Proof/Laws/Step.lean ====
section
/-!
SUPPORT. The meanings through their shared shape, the steps that read no bit, and one inversion lemma for
`step`.
-/

namespace Sys2Proof.Machine

/-- What an instruction does after its bits are consumed. -/
def effectOf : Instr → State → StepResult
  | .dim h w, s => latchDims h w s
  | .ord f, s => .next ((s.setOrd f).setPhase .ptypeP)
  | .ptp t, s => beginPlane (startsWithRun t) .planeP s
  | .lit1, s => emitPairs [1] s.isRun s
  | .lit2, s => emitPairs [2] s.isRun s
  | .lit3, s => emitPairs [3] s.isRun s
  | .lend, s => .next (s.setIsRun isRunAfterLend)
  | .mode1, s => latchMode 1 s
  | .mode2, s => latchMode 2 s
  | .mode3, s => latchMode 3 s
  | .modeRsv, s => latchMode 0 s
  | .pts t, s => beginPlane (modeType s.launch.modeCfg s.mode t) .planeS s
  | .runLong k v, s => emitRun k v s
  | .runK1 v, s => emitRun 1 v.toNat s
  | .runK2 v, s => emitRun 2 v.toNat s
  | .runK3 v, s => emitRun 3 v.toNat s
  | .runK4 v, s => emitRun 4 v.toNat s
  | .runK5 v, s => emitRun 5 v.toNat s
  | .runK6 v, s => emitRun 6 v.toNat s
  | .runK7 v, s => emitRun 7 v.toNat s
  | .runK8 v, s => emitRun 8 v.toNat s
  | .runK9 v, s => emitRun 9 v.toNat s
  | .runK10 v, s => emitRun 10 v.toNat s
  | .runK11 v, s => emitRun 11 v.toNat s
  | .runK12 v, s => emitRun 12 v.toNat s
  | .runK13 v, s => emitRun 13 v.toNat s
  | .runK14 v, s => emitRun 14 v.toNat s
  | .runK15 v, s => emitRun 15 v.toNat s
  | .runK16 v, s => emitRun 16 v.toNat s

/-- Every meaning has the one shape: its context, its length, its effect. -/
theorem exec_eq_element (i : Instr) (s : State) : exec i s = element i.ctx i.length (effectOf i) s := by
  cases i <;> rfl

/-- Where its context stands and its bits are there, an instruction takes its effect after its length. -/
theorem exec_runs {i : Instr} {s : State} (hc : contextOf s = some i.ctx) (hl : s.cur + i.length ≤ s.len) :
    exec i s = effectOf i (s.advance i.length) := by
  rw [exec_eq_element, element_runs _ hc hl]

/-- Where its context stands and `LEN` cuts it, an instruction raises its exhaustion error. -/
theorem exec_raises {i : Instr} {s : State} (hc : contextOf s = some i.ctx) (hl : s.len < s.cur + i.length) :
    exec i s = .next (s.raise i.ctx.exhaustion) := by
  rw [exec_eq_element, element_raises _ hc hl]

/-- An instruction with a next state that is no fault stood in its context with its bits there. -/
theorem exec_cases {i : Instr} {s t : State} (h : exec i s = .next t) (hf : t.phase ≠ .fault) :
    contextOf s = some i.ctx ∧ s.cur + i.length ≤ s.len ∧ effectOf i (s.advance i.length) = .next t := by
  rw [exec_eq_element] at h
  obtain ⟨hc, ⟨hl, he⟩ | ⟨_, rfl⟩⟩ := element_cases h
  · exact ⟨hc, hl, he⟩
  · simp at hf

/-- An instruction that carries a codeword runs as `execRun`. -/
theorem exec_of_runFields {i : Instr} {k v : Nat} (h : i.runFields = some (k, v)) (s : State) :
    exec i s = execRun k v s := by
  cases i <;> simp [Instr.runFields] at h <;> obtain ⟨rfl, rfl⟩ := h <;> rfl

/-- One inversion of `step`: an element that was fetched, an element cut by `LEN`, MERGE, ROUTE, START. -/
theorem step_cases {s t : State} (h : step s = .next t) :
    (∃ c i rest, contextOf s = some c ∧ decode c s.remaining = .ok (i, rest) ∧ exec i s = .next t) ∨
    (∃ c e, contextOf s = some c ∧ decode c s.remaining = .error e ∧ t = s.raise e) ∨
    (s.phase = .merge ∧ execMerge s = .next t) ∨
    (s.phase = .route ∧ execRoute s = .next t) ∨
    (stopped s = true ∧ ∃ l rest, s.pending = l :: rest ∧ launchAdmitted l = true ∧
      t = { s with pending := rest }.start l) := by
  unfold step enabled at h
  cases hc : contextOf s with
  | some c =>
    simp only [hc, fetch] at h
    cases hd : decode c s.remaining with
    | ok r => exact .inl ⟨c, r.1, r.2, rfl, hd, by simpa [hd] using h⟩
    | error e => exact .inr (.inl ⟨c, e, rfl, hd, by simpa [hd] using h.symm⟩)
  | none =>
    simp only [hc] at h
    have start (hs : stopped s = true) (h : execStart s = .next t) :
        stopped s = true ∧ ∃ l rest, s.pending = l :: rest ∧ launchAdmitted l = true ∧
          t = { s with pending := rest }.start l := by
      refine ⟨hs, ?_⟩
      simp only [execStart, hs, if_true] at h
      split at h
      · cases h
      · split at h
        · exact ⟨_, _, ‹_›, ‹_›, (Host.Outcome.next.inj h).symm⟩
        · cases h
    cases hp : s.phase <;> simp only [hp] at h
    case merge => exact .inr (.inr (.inl ⟨rfl, h⟩))
    case route => exact .inr (.inr (.inr (.inl ⟨rfl, h⟩)))
    case idle => exact .inr (.inr (.inr (.inr (start (by simp [stopped, hp]) h))))
    case done => exact .inr (.inr (.inr (.inr (start (by simp [stopped, hp]) h))))
    case fault => exact .inr (.inr (.inr (.inr (start (by simp [stopped, hp]) h))))
    all_goals cases h

/-- What MERGE can do. -/
theorem execMerge_cases {s t : State} (h : execMerge s = .next t) : s.phase = .merge ∧
    ∃ p q, s.planeP.readRange 0 (2 * s.total.toNat) = some p ∧
      s.planeS.readRange 0 (2 * s.total.toNat) = some q ∧
      mergePlanes (modePost s.launch.modeCfg s.mode p q).1 (modePost s.launch.modeCfg s.mode p q).2 s =
        .next t := by
  unfold execMerge at h
  split at h
  · refine ⟨‹_›, ?_⟩
    split at h
    · exact ⟨_, _, ‹_›, ‹_›, h⟩
    · cases h
  · cases h

/-- What MERGE can do with the planes read. -/
theorem mergePlanes_cases {p q : Bits} {s t : State} (h : mergePlanes p q s = .next t) :
    (p.length = q.length ∧ p.length ≤ Config.maxPlaneBits ∧
      t = (s.writePix (List.zipWith (mergePixel (orderOf s.ord)) p q)).setPhase .route) ∨
    (p.length ≠ q.length ∧ t = s.raise .planeLengthMismatch) := by
  unfold mergePlanes combine at h
  by_cases hl : p.length = q.length
  · simp only [hl, if_true] at h
    split at h
    · rename_i hi
      refine .inl ⟨hl, ?_, (Host.Outcome.next.inj h).symm⟩
      simp [inSpace, hl] at hi
      omega
    · cases h
  · simp only [hl, if_false] at h
    exact .inr ⟨hl, (Host.Outcome.next.inj h).symm⟩

/-- What ROUTE can do. -/
theorem execRoute_cases {s t : State} (h : execRoute s = .next t) : s.phase = .route ∧
    ∃ xs, s.pix.readRange 0 (s.tw.toNat * s.th.toNat * Config.tilePixels) = some xs ∧
      routePixels xs s = .next t := by
  unfold execRoute at h
  split at h
  · refine ⟨‹_›, ?_⟩
    split at h
    · exact ⟨_, ‹_›, h⟩
    · cases h
  · cases h

/-- Everything `Assemble` can answer, the grid given as a value. -/
theorem assemble_eq (xs : List Pixel) (w h : Nat) (o : Offset) : ∃ g, g = grid xs w h o ∧
    assemble xs w h o = if assembleDomain w h o then
      (if xs.length = w * h * Config.tilePixels then .ok (.ok g) else .ok (.error .pixelCountMismatch))
      else .error .outsideAssembleDomain :=
  ⟨_, rfl, rfl⟩

/-- Where `Assemble` returns a grid. -/
theorem assemble_ok {xs g : List Pixel} {w h : Nat} {o : Offset} (ha : assemble xs w h o = .ok (.ok g)) :
    assembleDomain w h o = true ∧ xs.length = w * h * Config.tilePixels ∧ g = grid xs w h o := by
  obtain ⟨g', hg, he⟩ := assemble_eq xs w h o
  rw [he] at ha
  split at ha
  · split at ha <;> cases ha
    exact ⟨‹_›, ‹_›, hg⟩
  · cases ha

/-- Where `Assemble` raises an error, and which. -/
theorem assemble_error {xs : List Pixel} {w h : Nat} {o : Offset} {e : DecodeError}
    (ha : assemble xs w h o = .ok (.error e)) :
    assembleDomain w h o = true ∧ xs.length ≠ w * h * Config.tilePixels ∧ e = .pixelCountMismatch := by
  obtain ⟨g', -, he⟩ := assemble_eq xs w h o
  rw [he] at ha
  split at ha
  · split at ha <;> cases ha
    exact ⟨‹_›, ‹_›, rfl⟩
  · cases ha

/-- What ROUTE can do with the pixels read. -/
theorem routePixels_cases {xs : List Pixel} {s t : State} (h : routePixels xs s = .next t) :
    assembleDomain s.tw.toNat s.th.toNat (placeAt s.launch.place s.tw.toNat s.th.toNat) = true ∧
    ((xs.length = s.tw.toNat * s.th.toNat * Config.tilePixels ∧
      t = (s.writeCanvas (grid xs s.tw.toNat s.th.toNat
        (placeAt s.launch.place s.tw.toNat s.th.toNat))).setPhase .done) ∨
    (xs.length ≠ s.tw.toNat * s.th.toNat * Config.tilePixels ∧ t = s.raise .pixelCountMismatch)) := by
  unfold routePixels at h
  split at h
  · cases h
  · obtain ⟨hd, hl, rfl⟩ := assemble_error ‹_›
    exact ⟨hd, .inr ⟨hl, (Host.Outcome.next.inj h).symm⟩⟩
  · obtain ⟨hd, hl, hg⟩ := assemble_ok ‹_›
    exact ⟨hd, .inl ⟨hl, by rw [← hg]; exact (Host.Outcome.next.inj h).symm⟩⟩

/-- What DIM's latch can do. -/
theorem latchDims_cases {h w : BitVec 4} {s t : State} (hs : latchDims h w s = .next t) :
    (dimsLegal h w = true ∧ t = (s.setDims h w (totalPairs w h)).setPhase .ordf) ∨
    (dimsLegal h w = false ∧ t = s.raise .invalidDimensions) := by
  unfold latchDims at hs
  cases hd : dimsLegal h w <;> simp [hd] at hs <;> simp [hs]

/-- What MODE's latch can do. -/
theorem latchMode_cases {m : BitVec 2} {s t : State} (h : latchMode m s = .next t) :
    (m ≠ 0 ∧ t = (s.setMode m).setPhase .ptypeS) ∨ (m = 0 ∧ t = s.raise .reservedMode) := by
  unfold latchMode at h
  split at h
  · exact .inr ⟨‹_›, (Host.Outcome.next.inj h).symm⟩
  · exact .inl ⟨‹_›, (Host.Outcome.next.inj h).symm⟩

/-- What a RUN can do: the emission it is, after its registers are written. -/
theorem emitRun_cases {k v : Nat} {s t : State} (h : emitRun k v s = .next t) :
    2 * s.cnt.toNat + 2 * runPairs (runLength k v) s.total.toNat s.cnt.toNat ≤ Config.maxPlaneBits ∧
    t = (((s.setVarint k (runPrefixValue k) v (runLength k v)).emit
      (List.replicate (runPairs (runLength k v) s.total.toNat s.cnt.toNat) 0)).setIsRun
        isRunAfterRun).completePlane := by
  unfold emitRun at h
  have := emitPairs_cases h
  simpa using this

/-- ROUTE where its pixels and its domain stand. -/
theorem execRoute_runs {s : State} {xs : List Pixel} {o : Offset} (hp : s.phase = .route)
    (hr : s.pix.readRange 0 (s.tw.toNat * s.th.toNat * Config.tilePixels) = some xs)
    (ho : placeAt s.launch.place s.tw.toNat s.th.toNat = o)
    (hd : assembleDomain s.tw.toNat s.th.toNat o = true) :
    execRoute s = .next ((s.writeCanvas (grid xs s.tw.toNat s.th.toNat o)).setPhase .done) := by
  have hl := (Memory.readRange_some hr).1
  simp [execRoute, hp, hr, routePixels, ho, hd, assemble, hl]

/-- START where a launch is admitted. -/
theorem execStart_runs {s : State} {l : Launch} {rest : List Launch} (hs : stopped s = true)
    (hp : s.pending = l :: rest) (hl : launchAdmitted l = true) :
    execStart s = .next ({ s with pending := rest }.start l) := by
  simp [execStart, hs, hp, hl]

end Sys2Proof.Machine
end

