-- ==== Sys2Proof/Laws/Sequencer.lean ====
section
/-!
SUPPORT. Which meaning `step` takes in each phase, the emission of pairs as one record, the bounds of the
header and of `PLACE`, and the router's grid element by element.
-/

namespace Sys2Proof.Machine

/-! ### `step` by phase -/

theorem step_stopped {s : State} (h : stopped s = true) : step s = execStart s := by
  unfold step enabled contextOf
  cases hp : s.phase <;> simp [stopped, hp] at h ⊢

theorem step_merge {s : State} (h : s.phase = .merge) : step s = execMerge s := by
  simp [step, enabled, contextOf, h]

theorem step_route {s : State} (h : s.phase = .route) : step s = execRoute s := by
  simp [step, enabled, contextOf, h]

/-- An element that `LEN` cuts. -/
theorem step_raises {s : State} {c : Ctx} {e : DecodeError} (hc : contextOf s = some c)
    (hd : decode c s.remaining = .error e) : step s = .next (s.raise e) := by
  simp [step, enabled, fetch, hc, hd]

theorem remaining_length (s : State) : s.remaining.length = s.len - s.cur := by
  simp [State.remaining, State.len]

/-! ### Bounds -/

theorem dimsLegal_iff (h w : BitVec 4) :
    dimsLegal h w = true ↔ 1 ≤ h.toNat ∧ h.toNat ≤ 7 ∧ 1 ≤ w.toNat ∧ w.toNat ≤ 7 := by
  simp [dimsLegal, Config.dimMin, Config.dimMax, and_assoc]

theorem placeAdmitted_iff (p : Placement) :
    placeAdmitted p = true ↔ ∀ w h : Nat, 1 ≤ w → w ≤ 7 → 1 ≤ h → h ≤ 7 →
      (placeAt p w h).ox + w ≤ 7 ∧ (placeAt p w h).oy + h ≤ 7 := by
  simp only [placeAdmitted, List.all_eq_true, List.mem_range, offsetFits, Config.dimMax, Config.canvasTiles,
    Bool.and_eq_true, decide_eq_true_eq]
  constructor
  · intro H w h h1 h2 h3 h4
    have := H (w - 1) (by omega) (h - 1) (by omega)
    rwa [Nat.sub_add_cancel h1, Nat.sub_add_cancel h3] at this
  · intro H w hw h hh
    exact H _ _ (by omega) (by omega) (by omega) (by omega)

theorem assembleDomain_iff (w h : Nat) (o : Offset) :
    assembleDomain w h o = true ↔ 1 ≤ w ∧ w ≤ 7 ∧ 1 ≤ h ∧ h ≤ 7 ∧ o.ox + w ≤ 7 ∧ o.oy + h ≤ 7 := by
  simp [assembleDomain, offsetFits, Config.dimMin, Config.dimMax, Config.canvasTiles, and_assoc]

/-! ### The closing operations -/

/-- What RUN and LIT leave, as one record: pairs that still fit the plane. -/
theorem emit_setIsRun_completePlane (ps : List Pair) (b : Bit) (s : State)
    (hp : s.phase = .planeP ∨ s.phase = .planeS) (hlt : s.cnt.toNat + ps.length ≤ s.total.toNat) :
    ((s.emit ps).setIsRun b).completePlane = { s with
      isRun := b
      cnt := BitVec.ofNat 11 (s.cnt.toNat + ps.length)
      planeP := if s.phase = .planeP then s.planeP.write (2 * s.cnt.toNat) (ps.flatMap pairBits)
        else s.planeP
      planeS := if s.phase = .planeS then s.planeS.write (2 * s.cnt.toNat) (ps.flatMap pairBits)
        else s.planeS
      phase := if s.cnt.toNat + ps.length = s.total.toNat then (if s.phase = .planeP then .modef else .merge)
        else s.phase } := by
  have hT := s.total.isLt
  have e : s.cnt + BitVec.ofNat 11 ps.length = BitVec.ofNat 11 (s.cnt.toNat + ps.length) := by
    apply BitVec.eq_of_toNat_eq
    simp
  have e2 : BitVec.ofNat 11 (s.cnt.toNat + ps.length) = s.total ↔ s.cnt.toNat + ps.length = s.total.toNat := by
    rw [← BitVec.toNat_inj, BitVec.toNat_ofNat, Nat.mod_eq_of_lt (by omega)]
  rcases hp with hp | hp <;>
  · simp only [State.completePlane, planeComplete, beq_iff_eq, State.emit, State.writePlane, hp, State.setIsRun,
      State.setCnt, e, e2, State.setPhase]
    split <;> simp [phaseAfterPlane, *]

/-- MERGE's planes, of equal length and inside the buffer. -/
theorem mergePlanes_runs {p q : Bits} (s : State) (h : p.length = q.length)
    (hm : p.length ≤ Config.maxPlaneBits) :
    mergePlanes p q s =
      .next ((s.writePix (List.zipWith (mergePixel (orderOf s.ord)) p q)).setPhase .route) := by
  have : (List.zipWith (mergePixel (orderOf s.ord)) p q).length ≤ Config.maxPlaneBits := by simp; omega
  simp only [mergePlanes, combine, h, if_true, inSpace, Nat.zero_add, decide_eq_true this]

theorem grid_length (xs : List Pixel) (w h : Nat) (o : Offset) : (grid xs w h o).length = 56 * 56 := by
  simp [grid, Config.canvasSide]

/-- The grid at row `y`, column `x`. -/
theorem grid_get (xs : List Pixel) (w h : Nat) (o : Offset) {y x : Nat} (hy : y < 56) (hx : x < 56) :
    (grid xs w h o)[canvasAddr y x]? = some (gridPixel xs w h o y x) := by
  have h1 : canvasAddr y x < 3136 := by simp [canvasAddr, Config.canvasSide]; omega
  have h2 : canvasAddr y x / 56 = y := by simp [canvasAddr, Config.canvasSide]; omega
  have h3 : canvasAddr y x % 56 = x := by simp [canvasAddr, Config.canvasSide]; omega
  simp [grid, Config.canvasSide, h1, h2, h3]

end Sys2Proof.Machine
end

