-- ==== Sys2Proof/Tests/Slice0.lean ====
section
/-!
SUPPORT. The model's own tests: the checks of `WellFormed`, words written out from 30_encoding.md, single
steps with results from the spec's worked examples, and for every obligation with hypotheses a witness that
meets them.
-/

namespace Sys2Proof.Tests

open Sys2Proof Sys2Proof.Machine

/-! ### Helpers -/

/-- A bit string written as digits in reading order (00_scope.md rule R13). -/
def bits (ds : List Nat) : Bits := ds.map (· == 1)

/-- The state a step answers, when it answers one. -/
def after : StepResult → Option State
  | .next t => some t
  | .fault _ | .refused _ => none

/-- A launch of bits `bs` from bit 0 with the default placement and modes. -/
def launchOf (bs : Bits) : Launch := { State.initialLaunch with input := bs }

/-- Phase `p` at bit 0 of `bs`. -/
def at0 (p : Phase) (bs : Bits) : State := { State.reset with phase := p, launch := launchOf bs }

/-- A plane phase of a 1 x 1 sprite with `cnt` pairs done. -/
def plane (p : Phase) (isRun : Bit) (cnt : BitVec 11) (bs : Bits) : State :=
  { at0 p bs with isRun := isRun, total := 32, cnt := cnt, th := 1, tw := 1 }

/-- `run` is the host's `Core.run` of this machine. -/
theorem run_eq_core_run (n : Nat) (s : State) : run n s = Host.Core.run Sys2Proof.core n s := by
  induction n generalizing s with
  | zero => rfl
  | succ n ih =>
    have hs : Host.Core.step Sys2Proof.core s = step s := rfl
    cases h : step s <;> simp [run, Host.Core.run, hs, h, ih] <;> rfl

/-! ### WellFormed -/

theorem test_runLong_short_refused : (Instr.runLong 16 0).wellFormed = false := by decide

theorem test_runLong_residual_refused : (Instr.runLong 17 (2 ^ 17)).wellFormed = false := by decide

theorem test_runLong_accepted : (Instr.runLong 17 (2 ^ 17 - 1)).wellFormed = true := by decide

/-! ### Decoding: words written out from 30_encoding.md section 3 (rules R75 to R83) -/

theorem test_decode_dim : decode .hdr (bits [0, 1, 1, 1, 0, 1, 0, 1, 1]) = .ok (.dim 7 5, bits [1]) := by decide

theorem test_decode_ord : decode .ordf (bits [1, 0]) = .ok (.ord true, bits [0]) := by decide

theorem test_decode_ptp : decode .ptypeP (bits [0]) = .ok (.ptp false, []) := by decide

theorem test_decode_pts : decode .ptypeS (bits [1]) = .ok (.pts true, []) := by decide

theorem test_decode_runK1 : decode .run (bits [0, 1]) = .ok (.runK1 1, []) := by decide

theorem test_decode_runK2 : decode .run (bits [1, 0, 1, 0]) = .ok (.runK2 2, []) := by decide

theorem test_decode_runK3 : decode .run (bits [1, 1, 0, 1, 0, 0]) = .ok (.runK3 4, []) := by decide

theorem test_decode_runK4 : decode .run (bits [1, 1, 1, 0, 1, 0, 0, 1]) = .ok (.runK4 9, []) := by decide

theorem test_decode_runK5 :
    decode .run (bits [1, 1, 1, 1, 0, 0, 1, 1, 1, 0]) = .ok (.runK5 14, []) := by decide

theorem test_decode_runK6 :
    decode .run (bits [1, 1, 1, 1, 1, 0, 0, 0, 0, 0, 0, 1]) = .ok (.runK6 1, []) := by decide

theorem test_decode_runK7 :
    decode .run (bits [1, 1, 1, 1, 1, 1, 0, 1, 0, 0, 0, 0, 0, 0]) = .ok (.runK7 64, []) := by decide

theorem test_decode_runK8 :
    decode .run (bits ([1, 1, 1, 1, 1, 1, 1, 0] ++ [1, 0, 0, 0, 0, 0, 0, 0])) = .ok (.runK8 128, []) := by decide

theorem test_decode_runK9 :
    decode .run (bits ([1, 1, 1, 1, 1, 1, 1, 1, 0] ++ [1, 0, 0, 0, 0, 0, 0, 0, 1])) =
      .ok (.runK9 257, []) := by decide

theorem test_decode_runK10 :
    decode .run (bits ([1, 1, 1, 1, 1, 1, 1, 1, 1, 0] ++ [0, 1, 0, 0, 0, 0, 0, 0, 0, 0])) =
      .ok (.runK10 256, []) := by decide

theorem test_decode_runK11 :
    decode .run (bits ([1, 1, 1, 1, 1, 1, 1, 1, 1, 1, 0] ++ [1, 0, 0, 0, 0, 0, 0, 0, 0, 1, 0])) =
      .ok (.runK11 1026, []) := by decide

theorem test_decode_runK12 :
    decode .run (bits ([1, 1, 1, 1, 1, 1, 1, 1, 1, 1, 1, 0] ++ [0, 0, 0, 0, 0, 0, 0, 0, 0, 0, 1, 1])) =
      .ok (.runK12 3, []) := by decide

theorem test_decode_runK13 :
    decode .run (bits ([1, 1, 1, 1, 1, 1, 1, 1, 1, 1, 1, 1, 0] ++ [1, 0, 0, 0, 0, 0, 0, 0, 0, 0, 0, 0, 0])) =
      .ok (.runK13 4096, []) := by decide

theorem test_decode_runK14 :
    decode .run (bits ([1, 1, 1, 1, 1, 1, 1, 1, 1, 1, 1, 1, 1, 0] ++
      [0, 0, 0, 0, 0, 0, 0, 0, 0, 0, 0, 1, 0, 1])) = .ok (.runK14 5, []) := by decide

theorem test_decode_runK15 :
    decode .run (bits ([1, 1, 1, 1, 1, 1, 1, 1, 1, 1, 1, 1, 1, 1, 0] ++
      [1, 0, 0, 0, 0, 0, 0, 0, 0, 0, 0, 0, 0, 0, 0])) = .ok (.runK15 16384, []) := by decide

theorem test_decode_runK16 :
    decode .run (bits ([1, 1, 1, 1, 1, 1, 1, 1, 1, 1, 1, 1, 1, 1, 1, 0] ++
      [1, 0, 0, 0, 0, 0, 0, 0, 0, 0, 0, 0, 0, 0, 0, 1])) = .ok (.runK16 32769, []) := by decide

theorem test_decode_runLong :
    decode .run (bits ([1, 1, 1, 1, 1, 1, 1, 1, 1, 1, 1, 1, 1, 1, 1, 1, 0] ++
      [1, 0, 0, 0, 0, 0, 0, 0, 0, 0, 0, 0, 0, 0, 0, 0, 1])) = .ok (.runLong 17 65537, []) := by decide

theorem test_decode_lit1 : decode .literal (bits [0, 1]) = .ok (.lit1, []) := by decide

theorem test_decode_lit2 : decode .literal (bits [1, 0]) = .ok (.lit2, []) := by decide

theorem test_decode_lit3 : decode .literal (bits [1, 1]) = .ok (.lit3, []) := by decide

theorem test_decode_lend : decode .literal (bits [0, 0]) = .ok (.lend, []) := by decide

theorem test_decode_mode1 : decode .modef (bits [0, 1]) = .ok (.mode1, []) := by decide

theorem test_decode_mode2 : decode .modef (bits [1, 0]) = .ok (.mode2, []) := by decide

theorem test_decode_mode3 : decode .modef (bits [1, 1]) = .ok (.mode3, []) := by decide

theorem test_decode_modeRsv : decode .modef (bits [0, 0]) = .ok (.modeRsv, []) := by decide

/-- 40_varint.md section 3: MPR's codeword of 45, and its encoder (95_test_vectors.md A). -/
theorem test_encode_45 : encodeRunLength 45 = bits [1, 1, 1, 1, 0, 0, 1, 1, 1, 0] := by decide

theorem test_encode_1 : encodeRunLength 1 = bits [0, 0] := by decide

/-- 95_test_vectors.md C1: the first two bytes of its stream (rule R51). -/
theorem test_bytes : bitsOfBytes [0x11, 0x3e] = bits ([0, 0, 0, 1, 0, 0, 0, 1] ++ [0, 0, 1, 1, 1, 1, 1, 0]) := by
  decide

/-! ### Words numbered as spec/opcode_table.json numbers them -/

theorem test_table_runK5 : decodeTableWord 16 0x3ce = some (.runK5 14) := by decide

theorem test_table_lit3 : decodeTableWord 8 3 = some .lit3 := by decide

theorem test_table_dim : decodeTableWord 8 0x75 = some (.dim 7 5) := by decide

theorem test_table_runK5_runs : (after (step (State.reset.withFetchWord 16 0x3ce))).map (fun t => (t.n, t.cur)) =
    some (45, 10) := by decide

theorem test_table_lend_runs : (after (step (State.reset.withFetchWord 8 0))).map (fun t => (t.isRun, t.cur)) =
    some (true, 2) := by decide

/-! ### Single steps -/

/-- 44_sprite_decoder.md rule R170, its worked example: height 7, width 5, `TOTAL` 1120. -/
theorem test_dim : (after (exec (.dim 7 5) (at0 .hdr (bits [0, 1, 1, 1, 0, 1, 0, 1])))).map
    (fun t => (t.th, t.tw, t.total, t.phase, t.cur)) = some (7, 5, 1120, .ordf, 8) := by decide

/-- Rule R170: 0x88 fails with `InvalidDimensions`. -/
theorem test_dim_88 : (after (step (at0 .hdr (bits [1, 0, 0, 0, 1, 0, 0, 0])))).map (fun t => status t) =
    some 0x1b := by decide

/-- Rule R209: seven bits of an illegal header are a `CursorExhausted`. -/
theorem test_dim_short : (after (step (at0 .hdr (bits [1, 0, 0, 0, 1, 0, 0])))).map (fun t => status t) =
    some 0x2b := by decide

theorem test_ord : (after (exec (.ord true) (at0 .ordf (bits [1])))).map (fun t => (t.ord, t.phase, t.cur)) =
    some (true, .ptypeP, 1) := by decide

theorem test_ptp : (after (exec (.ptp false) (at0 .ptypeP (bits [0])))).map
    (fun t => (t.isRun, t.cnt, t.phase)) = some (true, 0, .planeP) := by decide

/-- 44_sprite_decoder.md rule R175 with the default `MODE_TYPE`. -/
theorem test_pts : (after (exec (.pts true) (at0 .ptypeS (bits [1])))).map
    (fun t => (t.isRun, t.cnt, t.phase)) = some (false, 0, .planeS) := by decide

/-- A host's `MODE_TYPE` that inverts the flag of mode 2 (10_state.md rule R24). -/
theorem test_pts_host :
    modeType ⟨[((2, false), false), ((2, true), true)], .noEffect⟩ 2 true = true := by decide

/-- 95_test_vectors.md C2 step 8: `RUN 29` after three pairs. -/
theorem test_runK4 : (after (exec (.runK4 14) (plane .planeP true 3 (bits [1, 1, 1, 0, 1, 1, 1, 0])))).map
    (fun t => (t.k, t.pv, t.rv, t.n)) = some (4, 14, 14, 29) := by decide

theorem test_runK4_completes :
    (after (exec (.runK4 14) (plane .planeP true 3 (bits [1, 1, 1, 0, 1, 1, 1, 0])))).map
      (fun t => (t.cnt, t.phase, t.isRun, t.cur, t.planeP.length)) = some (32, .modef, false, 8, 58) := by decide

/-- 95_test_vectors.md C2 step 15: `RUN 100` after four pairs is cut to 28 (rule R123). -/
theorem test_runK6_cut :
    (after (exec (.runK6 37) (plane .planeS true 4 (bits [1, 1, 1, 1, 1, 0, 1, 0, 0, 1, 0, 1])))).map
      (fun t => (t.n, t.cnt, t.phase, t.planeS.length, t.planeP.length)) = some (100, 32, .merge, 56, 0) := by
  decide

/-- 95_test_vectors.md C4.2: two of four residual bits. -/
theorem test_run_short : (after (step (plane .planeP true 0 (bits [1, 1, 1, 0, 0, 1])))).map (fun t => status t) =
    some 0x3b := by decide

/-- 41_packetstream.md rule R119, its worked example: `CNT = 3`, bits `10`. -/
theorem test_lit2 : (after (exec .lit2 (plane .planeP false 3 (bits [1, 0])))).map
    (fun t => (t.planeP, t.cnt, t.isRun, t.phase)) = some ([(6, true), (7, false)], 4, false, .planeP) := by decide

theorem test_lit1 : (after (exec .lit1 (plane .planeS false 2 (bits [0, 1])))).map
    (fun t => (t.planeS, t.planeP)) = some ([(4, false), (5, true)], []) := by decide

/-- A LIT that fills the plane ends it with no LEND (rule R122). -/
theorem test_lit3_completes : (after (exec .lit3 (plane .planeP false 31 (bits [1, 1])))).map
    (fun t => (t.cnt, t.phase, t.cur)) = some (32, .modef, 2) := by decide

/-- Rule R120: LEND stores nothing and a RUN follows. -/
theorem test_lend : (after (exec .lend (plane .planeP false 3 (bits [0, 0, 1, 0, 0, 0])))).map
    (fun t => (t.isRun, t.cnt, t.planeP, contextOf t)) = some (true, 3, [], some .run) := by decide

/-- One bit left of a pair (rule R203). -/
theorem test_lit_short : (after (step (plane .planeP false 2 (bits [1])))).map (fun t => status t) =
    some 0x2b := by decide

theorem test_mode1 : (after (exec .mode1 (at0 .modef (bits [0, 1])))).map (fun t => (t.mode, t.phase)) =
    some (1, .ptypeS) := by decide

theorem test_mode2 : (after (exec .mode2 (at0 .modef (bits [1, 0])))).map (fun t => (t.mode, t.cur)) =
    some (2, 2) := by decide

theorem test_mode3 : (after (exec .mode3 (at0 .modef (bits [1, 1])))).map (fun t => t.mode) = some 3 := by decide

/-- 95_test_vectors.md C4.3: `ReservedMode`. -/
theorem test_modeRsv : (after (step (at0 .modef (bits [0, 0])))).map (fun t => status t) = some 0x5b := by decide

/-- 42_combiner.md rule R142, its worked example. -/
theorem test_combine_low : combine (bits [1, 0, 1, 0]) (bits [0, 0, 1, 1]) .aIsLow = .ok [1, 0, 3, 2] := by decide

theorem test_combine_high : combine (bits [1, 0, 1, 0]) (bits [0, 0, 1, 1]) .aIsHigh = .ok [2, 0, 3, 1] := by decide

/-- Two planes of four bits, each written whole. -/
def mergeState (ord : Bit) : State :=
  { at0 .merge [] with
    total := 2, ord := ord
    planeP := Memory.cells 0 (bits [1, 0, 1, 0]), planeS := Memory.cells 0 (bits [0, 0, 1, 1]) }

/-- 95_test_vectors.md C2: with `ORD = 1` the primary plane is bit 0 (rule R143). -/
theorem test_merge_ord1 : (after (step (mergeState true))).map (fun t => (t.pix, t.phase)) =
    some ([(0, 1), (1, 0), (2, 3), (3, 2)], .route) := by decide

theorem test_merge_ord0 : (after (step (mergeState false))).map (fun t => t.pix) =
    some [(0, 2), (1, 0), (2, 3), (3, 1)] := by decide

/-- 43_assembler.md rule R153, its worked example, with the pixels' low bits as their values. -/
theorem test_gridPixel : gridPixel ((List.range 128).map (BitVec.ofNat 2)) 2 1 ⟨0, 0⟩ 3 10 = BitVec.ofNat 2 90 ∧
    gridPixel ((List.range 128).map (fun _ => 3)) 2 1 ⟨0, 0⟩ 8 0 = 0 := by decide

/-- 95_test_vectors.md C3: tile 1 of a 2 x 1 sprite at (2, 3) is at row 24, column 24. -/
theorem test_gridPixel_placed :
    gridPixel (List.replicate 64 0 ++ 2 :: List.replicate 63 0) 2 1 ⟨2, 3⟩ 24 24 = 2 := by decide

/-- 93_implementation_defined.md U12: `W = 8`, `H = 0` and an offset off the canvas are refused. -/
theorem test_assemble_refused : assemble [] 8 1 ⟨0, 0⟩ = .error .outsideAssembleDomain ∧
    assemble [] 1 0 ⟨0, 0⟩ = .error .outsideAssembleDomain ∧
    assemble [] 7 1 ⟨1, 0⟩ = .error .outsideAssembleDomain := by decide

/-- 43_assembler.md rule R152: one pixel short. -/
theorem test_assemble_count : assemble (List.replicate 63 0) 1 1 ⟨0, 0⟩ = .ok (.error .pixelCountMismatch) := by
  decide

/-- 95_test_vectors.md C4.1: an illegal header; and 93_implementation_defined.md U3: `PLACE` off the canvas. -/
theorem test_decodeSprite : decodeSprite (launchOf (bits [1, 0, 0, 0, 1, 0, 0, 0])) =
      .ok (.error .invalidDimensions) ∧
    decodeSprite { launchOf [] with place := [((7, 7), ⟨1, 0⟩)] } = .error .launchNotAdmitted := by decide

/-- 40_varint.md section 3 and 41_packetstream.md section 4: the function `DecodePlane` on MPR's example. -/
theorem test_decodePlane : decodePlane 3 false (bits [1, 1, 1, 0, 0, 0, 0, 0]) = .ok ([3, 2, 0], []) := by decide

/-! ### Witnesses: states and operands that meet the hypotheses of each obligation -/

/-- Power-on with `ls` to start. -/
def waiting (ls : List Launch) : State := { State.reset with pending := ls }

theorem witness_StartBeginsTheLaunch : stopped (waiting [launchOf []]) = true ∧
    (waiting [launchOf []]).pending = launchOf [] :: [] ∧ launchAdmitted (launchOf []) = true := by decide

/-- `BASE = LEN` is admitted, `BASE = LEN + 1` is not; a 7 x 7 sprite moved off the corner is not. -/
theorem witness_StartRefusesInputsOutsideTheDomain :
    launchAdmitted { launchOf (bits [1]) with base := 1 } = true ∧
    launchAdmitted { launchOf (bits [1]) with base := 2 } = false ∧
    launchAdmitted { launchOf [] with place := [((1, 1), ⟨6, 6⟩)] } = true ∧
    launchAdmitted { launchOf [] with place := [((7, 7), ⟨1, 0⟩)] } = false ∧
    stopped (waiting [launchOf []]) = true := by decide

theorem witness_DecodeOfEncodeIsTheElement : (Instr.dim 0 15).wellFormed = true ∧
    (Instr.runK16 65535).wellFormed = true ∧ (Instr.runLong 17 131071).wellFormed = true := by decide

theorem witness_EncodeOfDecodeIsTheBits : decode .run (bits [0, 0]) = .ok (.runK1 0, []) ∧
    decode .modef (bits [0, 0, 1]) = .ok (.modeRsv, bits [1]) := by decide

theorem witness_StepRunsTheDecodedElement : contextOf (at0 .hdr (bits [0, 0, 0, 0, 0, 0, 0, 1])) = some .hdr ∧
    decode .hdr (at0 .hdr (bits [0, 0, 0, 0, 0, 0, 0, 1])).remaining = .ok (.dim 0 1, []) := by decide

/-- Each context at its field's length less one and at its length. -/
theorem witness_ShortFieldRaisesCursorExhausted :
    (contextOf (at0 .hdr (bits [0, 0, 0, 0, 0, 0, 0])) = some .hdr ∧
      contextOf (at0 .hdr (bits [0, 0, 0, 0, 0, 0, 0, 0])) = some .hdr) ∧
    (contextOf (at0 .ordf []) = some .ordf ∧ contextOf (at0 .ordf (bits [1])) = some .ordf) ∧
    (contextOf (at0 .ptypeP []) = some .ptypeP ∧ contextOf (at0 .ptypeP (bits [1])) = some .ptypeP) ∧
    (contextOf (at0 .ptypeS []) = some .ptypeS ∧ contextOf (at0 .ptypeS (bits [1])) = some .ptypeS) ∧
    (contextOf (plane .planeP false 31 (bits [1])) = some .literal ∧
      contextOf (plane .planeS false 31 (bits [0, 0])) = some .literal) ∧
    (contextOf (at0 .modef (bits [0])) = some .modef ∧ contextOf (at0 .modef (bits [0, 0])) = some .modef) := by
  decide

/-- No bit; ones only; a prefix with one residual bit missing; a codeword that ends at `LEN`. -/
theorem witness_ShortCodewordRaisesMalformedVarint :
    (contextOf (plane .planeP true 0 []) = some .run ∧
      (plane .planeP true 0 []).remaining = List.replicate 0 true) ∧
    (plane .planeP true 0 (bits [1, 1])).remaining = List.replicate 2 true ∧
    (plane .planeP true 0 (bits [1, 0, 1])).remaining = List.replicate (2 - 1) true ++ false :: [true] ∧
    (plane .planeP true 0 (bits [1, 0, 1, 1])).remaining =
      List.replicate (2 - 1) true ++ false :: [true, true] := by decide

theorem witness_VarintClosedForm : 1 ≤ 1 ∧ (1 : Nat) < 2 ^ 1 ∧ (2 ^ 20 - 1 : Nat) < 2 ^ 20 := by decide

/-- For `VarintTakesTwiceKBits`, `VarintIgnoresTrailingBits` and `VarintAndEncoderAreInverse`. -/
theorem witness_Varint : varintDecode (bits [0, 0]) = .ok (⟨1, 0, 0, 1⟩, []) ∧
    varintDecode (bits [1, 0, 1, 1, 1]) = .ok (⟨2, 2, 3, 6⟩, bits [1]) := by decide

/-- The four corners of the legal nibbles, an illegal one of each kind, and a header cut by one bit. -/
theorem witness_DimLatchesTheDimensions :
    ((at0 .hdr (bits [0, 0, 0, 1, 0, 1, 1, 1])).cur + 8 ≤ (at0 .hdr (bits [0, 0, 0, 1, 0, 1, 1, 1])).len ∧
      1 ≤ (1#4).toNat ∧ (7#4).toNat ≤ 7) ∧
    ((0#4).toNat < 1 ∧ 7 < (8#4).toNat) ∧
    (at0 .hdr (bits [0, 0, 0, 1, 0, 1, 1])).len < (at0 .hdr (bits [0, 0, 0, 1, 0, 1, 1])).cur + 8 := by decide

theorem witness_OrdLatchesTheFlag : (at0 .ordf (bits [1])).cur + 1 ≤ (at0 .ordf (bits [1])).len ∧
    (at0 .ordf []).phase = .ordf ∧ (at0 .ordf []).len < (at0 .ordf []).cur + 1 := by decide

theorem witness_PtpBeginsThePrimaryPlane :
    ({ at0 .ptypeP (bits [0]) with total := 32 }).phase = .ptypeP ∧
    ({ at0 .ptypeP (bits [0]) with total := 32 }).cur + 1 ≤ ({ at0 .ptypeP (bits [0]) with total := 32 }).len ∧
    32 ≤ ({ at0 .ptypeP (bits [0]) with total := 32 }).total.toNat ∧
    (at0 .ptypeP []).len < (at0 .ptypeP []).cur + 1 := by decide

theorem witness_PtsBeginsTheSecondaryPlane : (at0 .ptypeS (bits [0])).phase = .ptypeS ∧
    (at0 .ptypeS (bits [0])).cur + 1 ≤ (at0 .ptypeS (bits [0])).len := by decide

/-- For `ModeLatchesTheMode` and `ReservedModeRaises`. -/
theorem witness_Mode : (at0 .modef (bits [0, 1])).phase = .modef ∧
    (at0 .modef (bits [0, 1])).cur + 2 ≤ (at0 .modef (bits [0, 1])).len := by decide

/-- A run that completes the plane, one that does not, the longest table form, and one cut by a bit. -/
theorem witness_RunEmitsItsZeroPairs :
    ((Instr.runK1 0).runFields = some (1, 0) ∧ (Instr.runK1 0).wellFormed = true ∧
      (Instr.runLong 17 5).runFields = some (17, 5) ∧ (Instr.runLong 17 5).wellFormed = true) ∧
    ((plane .planeS true 31 (bits [0, 0])).phase = .planeS ∧
      (plane .planeS true 31 (bits [0, 0])).cnt < (plane .planeS true 31 (bits [0, 0])).total ∧
      (plane .planeS true 31 (bits [0, 0])).total.toNat ≤ 1568 ∧
      (plane .planeS true 31 (bits [0, 0])).cur + 2 * 1 ≤ (plane .planeS true 31 (bits [0, 0])).len) ∧
    ((plane .planeP true 0 (bits [0])).len < (plane .planeP true 0 (bits [0])).cur + 2 * 1 ∧
      (plane .planeP true 0 (bits [0])).isRun = true) := by decide

/-- For `LitEmitsItsPair`, `LendEndsTheLiteralPacket` and `ZeroPairDependsOnIsRun`. -/
theorem witness_Literal :
    ((plane .planeP false 31 (bits [1, 1])).cnt < (plane .planeP false 31 (bits [1, 1])).total ∧
      (plane .planeP false 31 (bits [1, 1])).total.toNat ≤ 1568 ∧
      (plane .planeP false 31 (bits [1, 1])).isRun = false ∧
      (plane .planeP false 31 (bits [1, 1])).cur + 2 ≤ (plane .planeP false 31 (bits [1, 1])).len) ∧
    (plane .planeS false 0 (bits [0])).len < (plane .planeS false 0 (bits [0])).cur + 2 ∧
    (plane .planeP false 0 (bits [0, 0])).remaining = false :: false :: [] ∧
    (plane .planeP true 0 (bits [0, 0])).remaining = false :: false :: [] := by decide

/-- For `PlaneElementsStoreOnlyTheirPairs`: a next state that is no fault, for a RUN and for a LIT. -/
theorem witness_PlaneElementsStoreOnlyTheirPairs :
    (after (exec (.runK1 0) (plane .planeP true 0 (bits [0, 0])))).map (fun t => t.phase) = some .planeP ∧
    (after (exec .lit3 (plane .planeS false 0 (bits [1, 1])))).map (fun t => t.phase) = some .planeS ∧
    (Instr.runK1 0).ctx = .run ∧ Instr.lit3.ctx = .literal := by decide

theorem witness_HeaderElementsStoreNothing :
    (after (exec (.ord true) (at0 .ordf (bits [1])))).map (fun t => t.phase) = some .ptypeP ∧
    (Instr.ord true).ctx ≠ .run ∧ (Instr.ord true).ctx ≠ .literal := by decide

/-- A step of a launch that raises nothing: for `LaunchInputsAreNeverWritten`, `PhasesFollowTheirOrder`,
`ElementsAdvanceByTheirLength` and `NoPartialOutput`. -/
theorem witness_RunningStep : stopped (at0 .ordf (bits [1])) = false ∧ (at0 .ordf (bits [1])).phase ≠ .route ∧
    (after (step (at0 .ordf (bits [1])))).map (fun t => t.phase) = some .ptypeP := by decide

/-- A step that raises: the other clause of `NoPartialOutput`. -/
theorem witness_FaultingStep : (after (step (at0 .ordf []))).map (fun t => t.phase) = some .fault := by decide

theorem witness_CombineMergesBitByBit : (bits [1, 0]).length ≠ (bits [1]).length ∧
    (bits [1, 0]).length = (bits [0, 0]).length ∧ (bits [1, 0])[1]? = some false := by decide

/-- Also for MERGE in `ElementsAdvanceByTheirLength`. -/
theorem witness_MergeWritesThePixels : (mergeState true).phase = .merge ∧ (mergeState true).total.toNat ≤ 1568 ∧
    (mergeState true).planeP.readRange 0 (2 * (mergeState true).total.toNat) = some (bits [1, 0, 1, 0]) ∧
    (mergeState true).planeS.readRange 0 (2 * (mergeState true).total.toNat) = some (bits [0, 0, 1, 1]) ∧
    (modePost (mergeState true).launch.modeCfg 0 (bits [1, 0, 1, 0]) (bits [0, 0, 1, 1])).1[3]? = some false ∧
    (after (step (mergeState true))).map (fun t => t.phase) = some .route := by decide

/-- One tile in the last canvas tile; the first and last pixel's clauses. -/
theorem witness_AssembleLaysTheTiles : (List.replicate 64 (0 : Pixel)).length = 1 * 1 * 64 ∧
    (1 : Nat) ≤ 1 ∧ (⟨6, 6⟩ : Offset).ox + 1 ≤ 7 ∧ (⟨6, 6⟩ : Offset).oy + 1 ≤ 7 ∧ 55 < 56 ∧ 55 / 8 = 6 ∧ 47 / 8 < 6 := by decide

theorem witness_AssembleRejectsAWrongCount : (List.replicate 63 (0 : Pixel)).length ≠ 1 * 1 * 64 ∧
    (1 : Nat) ≤ 1 ∧ (⟨6, 6⟩ : Offset).ox + 1 ≤ 7 ∧ (⟨6, 6⟩ : Offset).oy + 1 ≤ 7 := by decide

/-- For `DecodeSpriteRefusesOutsideItsDomain`: `BASE = LEN` with the default placement, and `BASE = LEN + 1`. -/
theorem witness_DecodeSpriteRefusesOutsideItsDomain : inDomain (launchOf []) ∧
    ¬ inDomain { launchOf [] with base := 1 } := by
  refine ⟨⟨Nat.le_refl _, fun w h _ _ _ _ => ?_⟩, fun h => absurd h.1 (by decide)⟩
  simp [placeAt, launchOf, State.initialLaunch]
  omega

/-- A 1 x 1 sprite merged, before ROUTE. -/
def routeState : State := { plane .route false 32 [] with pix := Memory.cells 0 (List.replicate 64 2) }

theorem routeState_pix : routeState.pix.readRange 0 (routeState.tw.toNat * routeState.th.toNat * 64) =
    some (List.replicate 64 2) := by decide

theorem witness_RouteWritesTheCanvas : routeState.phase = .route ∧ 1 ≤ routeState.tw.toNat ∧
    1 ≤ routeState.th.toNat ∧
    (placeAt routeState.launch.place routeState.tw.toNat routeState.th.toNat).ox + routeState.tw.toNat ≤ 7 ∧
    (placeAt routeState.launch.place routeState.tw.toNat routeState.th.toNat).oy + routeState.th.toNat ≤ 7 := by
  decide

theorem routeState_step : step routeState =
    .next ((routeState.writeCanvas (grid (List.replicate 64 2) 1 1 ⟨0, 0⟩)).setPhase .done) := by
  have h : execRoute routeState = _ := execRoute_runs (o := ⟨0, 0⟩) rfl routeState_pix (by decide) (by decide)
  exact h

/-- A launch that ended well, from a state in which it runs: one step of ROUTE reaches `DONE`. -/
theorem witness_BitsAfterTheSpriteDoNotMatter : ∃ t, stopped routeState = false ∧ run 1 routeState = .next t ∧
    t.phase = .done ∧ t.pending = routeState.pending ∧
    (bits [1, 1]).take t.cur = routeState.launch.input.take t.cur ∧ t.cur ≤ (bits [1, 1]).length :=
  ⟨(routeState.writeCanvas (grid (List.replicate 64 2) 1 1 ⟨0, 0⟩)).setPhase .done, rfl,
    by rw [run, routeState_step]; rfl, rfl, rfl, rfl, Nat.zero_le _⟩

/-- A faulted launch with a START to come, one with none, and a finished one. -/
theorem witness_OnlyStartLeavesAFault :
    (at0 .fault []).pending = [] ∧ (at0 .done []).pending = [] ∧
    (after (step { waiting [launchOf []] with phase := .fault, err := some .cursorExhausted })).map
      (fun t => (t.phase, t.err)) = some (.hdr, none) := by decide

/-- A plane step that completes its plane and one that does not. -/
theorem witness_PlaneEndsWhenItIsComplete :
    (after (step (plane .planeP false 31 (bits [1, 1])))).map (fun t => (t.cnt == t.total, t.phase)) =
      some (true, .modef) ∧
    (after (step (plane .planeS false 30 (bits [1, 1])))).map (fun t => (t.cnt == t.total, t.phase)) =
      some (false, .planeS) := by decide

theorem waiting_inv (ls : List Launch) : Inv (waiting ls) := by
  constructor <;> simp [waiting, State.reset, headerRead, modeRead, filledP, filledS, filledPix, filledCanvas]

/-- For `EveryStepKeepsTheInvariant`, `InvariantMakesBuffersCanonical`: a state with the invariant and a step. -/
theorem witness_EveryStepKeepsTheInvariant : Inv (waiting [launchOf []]) ∧
    (after (step (waiting [launchOf []]))).map (fun t => t.phase) = some .hdr := ⟨waiting_inv _, by decide⟩

theorem witness_EveryStepKeepsBuffersCanonical : buffersWf (mergeState true) ∧
    (after (step (mergeState true))).map (fun t => t.phase) = some .route := by
  unfold buffersWf
  decide

theorem witness_ALaunchNeverSticks : Inv (at0 .hdr (bits [1])) ∧ stopped (at0 .hdr (bits [1])) = false := by
  refine ⟨?_, rfl⟩
  constructor <;> simp [at0, State.reset, headerRead, modeRead, filledP, filledS, filledPix, filledCanvas,
    State.len, launchOf, State.initialLaunch, bits]
  decide

/-- For `EveryLaunchEnds` and `StepsComputeDecodeSprite`: a launch to start after one that faulted. -/
theorem witness_WholeLaunch :
    stopped { waiting [launchOf (bits [1])] with phase := .fault, err := some .reservedMode } = true ∧
    ({ waiting [launchOf (bits [1])] with phase := .fault, err := some .reservedMode }).pending =
      launchOf (bits [1]) :: [] ∧ launchAdmitted (launchOf (bits [1])) = true := by decide

/-- Two different stopped states, and a launch both run to its end in two steps. -/
theorem witness_LaunchesForgetThePast : ∃ t₁, stopped (waiting [launchOf []]) = true ∧
    stopped { routeState with phase := .done, pending := [launchOf []] } = true ∧
    run 2 (waiting [launchOf []]) = .next t₁ ∧ t₁.pending = [] ∧ stopped t₁ = true := by
  refine ⟨(({ waiting [launchOf []] with pending := [] }).start (launchOf [])).raise .cursorExhausted, by decide,
    by decide, ?_, rfl, rfl⟩
  have h1 : step (waiting [launchOf []]) = .next (({ waiting [launchOf []] with pending := [] }).start (launchOf [])) :=
    execStart_runs rfl rfl (by decide)
  rw [run, h1]
  rfl

/-- No literal at all, and as many as leave one pair to come. -/
theorem witness_TerminatorIsDiscarded : (∀ p ∈ ([] : List Pair), p ≠ 0) ∧ ([] : List Pair).length < 1 ∧
    (∀ p ∈ ([3, 2] : List Pair), p ≠ 0) ∧ ([3, 2] : List Pair).length < 3 := by decide

theorem witness_DecodePlaneReadsOnlyItsElements : decodePlane 1 false (bits [1, 1, 0]) = .ok ([3], bits [0]) := by
  decide

/-! ### The host's reads -/

/-- A finished state with one `CANVAS` element written, at row 1 and column 2. -/
def doneState : State := { at0 .done [] with th := 1, tw := 2, ord := true, mode := 3, cur := 49, canvas := [(58, 2)] }

/-- 10_state.md rule R42: the reads at `DONE`; row 56 is no element. -/
theorem test_hostRead_done : hostRead .cur doneState = some 49 ∧ hostRead .mode doneState = some 3 ∧
    hostRead (.canvas 1 2) doneState = some 2 ∧ hostRead (.canvas 56 0) doneState = none := by decide

/-- 10_state.md rule R42: at `FAULT` the same registers are not read, and `STATUS` is. -/
theorem test_hostRead_fault :
    hostRead .cur { doneState with phase := .fault, err := some .reservedMode } = none ∧
    hostRead (.canvas 1 2) { doneState with phase := .fault, err := some .reservedMode } = none ∧
    hostRead .status { doneState with phase := .fault, err := some .reservedMode } = some 0x5b := by decide

theorem witness_HostReadsByPhase : doneState.phase = .done ∧ (at0 .hdr []).phase ≠ .done ∧
    (at0 .fault []).phase ≠ .done ∧ HostRead.cur ≠ .status := by decide

/-- A blank 1 x 1 sprite, decoded: every buffer holds what the rules have written by `DONE`. -/
def finished : State :=
  { plane .done false 32 [] with
    mode := 1
    planeP := Memory.cells 0 (List.replicate 64 false), planeS := Memory.cells 0 (List.replicate 64 false)
    pix := Memory.cells 0 (List.replicate 64 0), canvas := Memory.cells 0 (List.replicate 3136 0) }

theorem witness_HostReadsTheResultAtDone : Inv finished ∧ finished.phase = .done := by
  refine ⟨⟨by decide, by decide, by decide, by decide, by decide, by decide, ?_, ?_, ?_, ?_⟩, rfl⟩ <;>
    simp only [finished, Memory.cells_keys, List.length_replicate, List.range_eq_range'] <;> rfl

/-- Two elements cut by `LEN` in different phases. -/
theorem witness_FaultsOfOneErrorLookAlike : stopped (at0 .ordf []) = false ∧ stopped (at0 .hdr []) = false ∧
    (after (step (at0 .ordf []))).map (fun t => (t.phase, t.err)) = some (.fault, some .cursorExhausted) ∧
    (after (step (at0 .hdr []))).map (fun t => (t.phase, t.err)) = some (.fault, some .cursorExhausted) := by decide

end Sys2Proof.Tests
end

/-!
SUPPORT. 30_encoding.md: every element advances the cursor by its length and MERGE and ROUTE read no bit (rule
R73), and the two readings of the bits `00` in a plane (rule R80).
-/

namespace Sys2Proof.Machine

/-! ### What an element does after its bits leaves the cursor -/

theorem latchDims_cur {h w : BitVec 4} {s t : State} (hs : latchDims h w s = .next t) (hf : t.phase ≠ .fault) :
    t.cur = s.cur := by
  obtain ⟨-, rfl⟩ | ⟨-, rfl⟩ := latchDims_cases hs
  · simp
  · exact absurd (State.raise_phase ..) hf

theorem latchMode_cur {m : BitVec 2} {s t : State} (h : latchMode m s = .next t) (hf : t.phase ≠ .fault) :
    t.cur = s.cur := by
  obtain ⟨-, rfl⟩ | ⟨-, rfl⟩ := latchMode_cases h
  · simp
  · exact absurd (State.raise_phase ..) hf

theorem beginPlane_cur {b : Bit} {p : Phase} {s t : State} (h : beginPlane b p s = .next t) :
    t.cur = s.cur := by
  cases h
  simp

theorem emitPairs_cur {ps : List Pair} {b : Bit} {s t : State} (h : emitPairs ps b s = .next t) :
    t.cur = s.cur := by
  obtain ⟨-, rfl⟩ := emitPairs_cases h
  simp

theorem emitRun_cur {k v : Nat} {s t : State} (h : emitRun k v s = .next t) : t.cur = s.cur := by
  obtain ⟨-, rfl⟩ := emitRun_cases h
  simp

/-- The effect of an element moves the cursor only by raising: its bits were consumed before it. -/
theorem effectOf_cur {i : Instr} {s t : State} (h : effectOf i s = .next t) (hf : t.phase ≠ .fault) :
    t.cur = s.cur := by
  cases i
  case dim => exact latchDims_cur h hf
  case ord => cases h; simp
  case ptp | pts => exact beginPlane_cur h
  case lit1 | lit2 | lit3 => exact emitPairs_cur h
  case lend => cases h; simp
  case mode1 | mode2 | mode3 | modeRsv => exact latchMode_cur h hf
  all_goals exact emitRun_cur h

theorem exec_cur {i : Instr} {s t : State} (h : exec i s = .next t) (hf : t.phase ≠ .fault) :
    t.cur = s.cur + i.length := by
  obtain ⟨-, -, he⟩ := exec_cases h hf
  exact effectOf_cur he hf

/-! ### MERGE and ROUTE under other bits in `IN` -/

/-- MERGE where both planes hold their values. -/
theorem execMerge_runs {s : State} {p q : Bits} (hp : s.phase = .merge)
    (hP : s.planeP.readRange 0 (2 * s.total.toNat) = some p)
    (hS : s.planeS.readRange 0 (2 * s.total.toNat) = some q) :
    execMerge s =
      mergePlanes (modePost s.launch.modeCfg s.mode p q).1 (modePost s.launch.modeCfg s.mode p q).2 s := by
  simp [execMerge, hp, hP, hS]

theorem execMerge_withInput {s t : State} (input : Bits) (h : execMerge s = .next t) (hf : t.phase ≠ .fault) :
    t.cur = s.cur ∧ execMerge (s.withInput input) = .next (t.withInput input) := by
  obtain ⟨hp, p, q, hP, hS, hm⟩ := execMerge_cases h
  obtain ⟨hl, hb, rfl⟩ | ⟨-, rfl⟩ := mergePlanes_cases hm
  · exact ⟨by simp, (execMerge_runs (s := s.withInput input) hp hP hS).trans (mergePlanes_runs _ hl hb)⟩
  · exact absurd (State.raise_phase ..) hf

theorem execRoute_withInput {s t : State} (input : Bits) (h : execRoute s = .next t) (hf : t.phase ≠ .fault) :
    t.cur = s.cur ∧ execRoute (s.withInput input) = .next (t.withInput input) := by
  obtain ⟨hp, xs, hr, hx⟩ := execRoute_cases h
  obtain ⟨hd, ⟨-, rfl⟩ | ⟨-, rfl⟩⟩ := routePixels_cases hx
  · exact ⟨by simp, execRoute_runs (s := s.withInput input) hp hr rfl hd⟩
  · exact absurd (State.raise_phase ..) hf

/-- Settles O37: an element's effect leaves the cursor its length put it at, and MERGE and ROUTE run from
fields that `withInput` does not touch. -/
theorem elementsAdvanceByTheirLength : Obligations.ElementsAdvanceByTheirLength := by
  refine ⟨fun i s t => exec_cur, fun s t input hp h hf => ?_⟩
  obtain hp | hp := hp
  · rw [step_merge hp] at h
    rw [step_merge (s := s.withInput input) hp]
    exact execMerge_withInput input h hf
  · rw [step_route hp] at h
    rw [step_route (s := s.withInput input) hp]
    exact execRoute_withInput input h hf

/-! ### The bits `00` -/

/-- An element that `LEN` does not cut is executed. -/
theorem step_runs {s : State} {c : Ctx} {i : Instr} {rest : Bits} (hc : contextOf s = some c)
    (hd : decode c s.remaining = .ok (i, rest)) : step s = exec i s := by
  simp [step, enabled, fetch, hc, hd]

theorem decode_literal_zeroPair (rest : Bits) : decode .literal (false :: false :: rest) = .ok (.lend, rest) := by
  have h : readField 2 (false :: false :: rest) = .ok (0, rest) := readField_append (s := [false, false]) rfl rest
  simp [decode, h, pairInstr]

/-- The codeword of `k = 1` and residual 0 is the bits `00`, of run length 1. -/
theorem varintDecode_zeroPair (rest : Bits) :
    varintDecode (false :: false :: rest) = .ok (⟨1, 0, 0, 1⟩, rest) :=
  varintDecode_append (k := 1) (v := 0) (by decide) (by decide) rest

theorem decode_run_zeroPair (rest : Bits) : decode .run (false :: false :: rest) = .ok (.runK1 0, rest) := by
  simp [decode, varintDecode_zeroPair, runInstr]

theorem execLend_runs {s : State} (hc : contextOf s = some .literal) (hl : s.cur + 2 ≤ s.len) :
    exec .lend s = .next { s with cur := s.cur + 2, isRun := true } :=
  exec_runs (i := .lend) hc hl

/-- Settles O23: the context, which `ISRUN` selects, decodes the two bits as LEND or as the codeword of 1. -/
theorem zeroPairDependsOnIsRun : Obligations.ZeroPairDependsOnIsRun := by
  intro s rest hbits hphase hcnt
  have hl : s.cur + 2 ≤ s.len := by
    have := remaining_length s
    simp [hbits] at this
    omega
  refine ⟨fun hr => ?_, fun hr => ?_⟩
  · have hc := contextOf_literal.mpr ⟨hphase, hcnt, hr⟩
    have hs := step_runs hc (hbits ▸ decode_literal_zeroPair rest)
    exact ⟨hs, hs.trans (execLend_runs hc hl)⟩
  · have hc := contextOf_run.mpr ⟨hphase, hcnt, hr⟩
    exact ⟨step_runs hc (hbits ▸ decode_run_zeroPair rest), _, hbits ▸ varintDecode_zeroPair rest, rfl⟩

end Sys2Proof.Machine

/-!
SUPPORT. 40_varint.md: a codeword is `2K` bits and no bit after them counts (rules R103, R104), and the two ways
in which `LEN` cuts a codeword (rule R105).
-/

namespace Sys2Proof

/-! ### The bits of a codeword that was read -/

/-- A codeword that was read is the first `2K` bits, and what is left is the others. -/
theorem varintDecode_ok_splits {bits rest : Bits} {r : Varint} (h : varintDecode bits = .ok (r, rest)) :
    1 ≤ r.k ∧ 2 * r.k ≤ bits.length ∧ bits.take (2 * r.k) = encodeRun r.k r.rv ∧ rest = bits.drop (2 * r.k) := by
  obtain ⟨hk, -, rfl, -⟩ := varintDecode_ok h
  have hl : (encodeRun r.k r.rv).length = 2 * r.k := Laws.EncodingLength.run hk r.rv
  exact ⟨hk, by simp [hl], List.take_left' hl, (List.drop_left' hl).symm⟩

/-- The codeword that was read leaves the same registers before any other bits. -/
theorem varintDecode_encodeRun_of_ok {bits rest : Bits} {r : Varint} (h : varintDecode bits = .ok (r, rest))
    (tail : Bits) : varintDecode (encodeRun r.k r.rv ++ tail) = .ok (r, tail) := by
  obtain ⟨hk, hv, -, hpv, hn⟩ := varintDecode_ok h
  have hr : (⟨r.k, value (runPrefix r.k), r.rv, value (runPrefix r.k) + r.rv + 1⟩ : Varint) = r := by
    rw [value_runPrefix hk, ← hpv, ← hn]
  rw [varintDecode_append hk hv, hr]

/-- Settles O11: the bits are the codeword of the registers followed by the rest, and that codeword is `2K` long. -/
theorem varintTakesTwiceKBits : Obligations.VarintTakesTwiceKBits := by
  intro bits rest r h
  obtain ⟨hk, hl, -, hd⟩ := varintDecode_ok_splits h
  exact ⟨hk, hl, hd⟩

/-- Settles O12: the first `2K` bits spell the registers, so they decode to them before any tail; 45 is the
codeword of `k = 5` and residual 14. -/
theorem varintIgnoresTrailingBits : Obligations.VarintIgnoresTrailingBits := by
  refine ⟨fun bits rest tail r h => ?_, _, varintDecode_append (k := 5) (v := 14) (by decide) (by decide) _, rfl⟩
  obtain ⟨-, -, ht, -⟩ := varintDecode_ok_splits h
  rw [ht]
  exact varintDecode_encodeRun_of_ok h tail

/-! ### Codewords cut by `LEN`, and whole ones -/

theorem runPrefix_append (k : Nat) (r : Bits) :
    runPrefix k ++ r = List.replicate (k - 1) true ++ false :: r := by
  simp [runPrefix]

/-- The input ends before a 0 bit ends the prefix. -/
theorem varintDecode_ones (m : Nat) : varintDecode (List.replicate m true) = .error .malformedVarint := by
  simp [varintDecode, readRunPrefix_ones_only]

/-- The prefix is complete and the residual is cut. -/
theorem varintDecode_short {k : Nat} {r : Bits} (hk : 1 ≤ k) (hr : r.length < k) :
    varintDecode (runPrefix k ++ r) = .error .malformedVarint := by
  simp [varintDecode, readRunPrefix_append hk, hr]

/-- A complete prefix and a complete residual are the codeword of the residual's value. -/
theorem runPrefix_append_eq_encodeRun {k : Nat} {r : Bits} (hr : k ≤ r.length) :
    runPrefix k ++ r = encodeRun k (value (r.take k)) ++ r.drop k := by
  have hv := bitsOf_value (r.take k)
  rw [List.length_take_of_le hr] at hv
  rw [encodeRun, hv, List.append_assoc, List.take_append_drop]

namespace Machine

/-- Where the varint unit fails, the step of a RUN raises its error. -/
theorem step_raises_of_varintDecode {s : State} {e : DecodeError} (hc : contextOf s = some .run)
    (h : varintDecode s.remaining = .error e) : step s = .next (s.raise e) :=
  step_raises hc (by simp [decode, h])

/-- Where a codeword stands at the cursor, the step is the RUN element of its prefix length and residual. -/
theorem step_runs_codeword {s : State} {k v : Nat} {rest : Bits} (hc : contextOf s = some .run) (hk : 1 ≤ k)
    (hv : v < 2 ^ k) (hb : s.remaining = encodeRun k v ++ rest) : step s = exec (runInstr k v) s :=
  step_runs (rest := rest) hc (by simp [decode, hb, varintDecode_append hk hv])

/-- An emission of pairs outside `FAULT` raises nothing: it stays in its phase or ends the plane. -/
theorem emitPairs_phase_ne_fault {ps : List Pair} {b : Bit} {s t : State} (h : emitPairs ps b s = .next t)
    (hp : s.phase ≠ .fault) : t.phase ≠ .fault := by
  obtain ⟨-, rfl⟩ := emitPairs_cases h
  rw [State.completePlane_phase]
  split
  · unfold phaseAfterPlane
    split <;> decide
  · simpa using hp

/-- A RUN whose bits are all there raises nothing. -/
theorem execRun_phase_ne_fault {k v : Nat} {s t : State} (hl : s.cur + 2 * k ≤ s.len)
    (h : execRun k v s = .next t) : t.phase ≠ .fault := by
  obtain ⟨hc, ⟨-, he⟩ | ⟨hs, -⟩⟩ := element_cases h
  · have hp : s.phase ≠ .fault := by
      obtain ⟨hp | hp, -⟩ := contextOf_run.mp hc <;> simp [hp]
    exact emitPairs_phase_ne_fault he (by simpa using hp)
  · omega

/-- Settles O9: the varint unit fails on ones alone and on a cut residual; any other bits are a codeword, whose
RUN element has its `2K` bits and only emits pairs. -/
theorem shortCodewordRaisesMalformedVarint : Obligations.ShortCodewordRaisesMalformedVarint := by
  intro s hc
  refine ⟨fun m hb => ?_, fun k r hk hb hr => ?_, fun k r hk hb hr => ?_⟩
  · exact step_raises_of_varintDecode hc (hb ▸ varintDecode_ones m)
  · rw [← runPrefix_append] at hb
    exact step_raises_of_varintDecode hc (hb ▸ varintDecode_short hk hr)
  · rw [← runPrefix_append, runPrefix_append_eq_encodeRun hr] at hb
    have hv : value (r.take k) < 2 ^ k := by simpa [hr] using value_lt (r.take k)
    have hs := step_runs_codeword hc hk hv hb
    have hi := (runFields_runInstr hk hv).1
    have hl : s.cur + 2 * k ≤ s.len := by
      have hlen := remaining_length s
      rw [hb, List.length_append, Laws.EncodingLength.run hk] at hlen
      omega
    refine ⟨⟨_, _, hi, hs⟩, fun t ht => ?_⟩
    rw [hs, exec_of_runFields hi] at ht
    exact execRun_phase_ne_fault hl ht

end Machine

end Sys2Proof

/-!
SUPPORT. 41_packetstream.md: what RUN, LIT and LEND leave, as whole next states (rules R118 to R123).
-/

namespace Sys2Proof.Machine

/-! ### Emissions and cut elements -/

/-- Pairs that the plane still needs are stored: a plane of at most 1568 pairs lies inside its buffer. -/
theorem emitPairs_runs_of_fits {ps : List Pair} {s : State} (b : Bit)
    (hp : s.phase = .planeP ∨ s.phase = .planeS) (hfit : s.cnt.toNat + ps.length ≤ s.total.toNat)
    (hT : s.total.toNat ≤ 1568) :
    emitPairs ps b s = .next { s with
      isRun := b
      cnt := BitVec.ofNat 11 (s.cnt.toNat + ps.length)
      planeP := if s.phase = .planeP then s.planeP.write (2 * s.cnt.toNat) (ps.flatMap pairBits)
        else s.planeP
      planeS := if s.phase = .planeS then s.planeS.write (2 * s.cnt.toNat) (ps.flatMap pairBits)
        else s.planeS
      phase := if s.cnt.toNat + ps.length = s.total.toNat then (if s.phase = .planeP then .modef else .merge)
        else s.phase } := by
  have hspace : 2 * s.cnt.toNat + 2 * ps.length ≤ Config.maxPlaneBits := by
    simp only [Config.maxPlaneBits]
    omega
  rw [emitPairs_runs b hspace, emit_setIsRun_completePlane ps b s hp hfit]

/-- An element that `LEN` cuts ends in `FAULT` with its context's error. -/
theorem element_faults {c : Ctx} {n : Nat} {s : State} (effect : State → StepResult)
    (hc : contextOf s = some c) (hl : s.len < s.cur + n) :
    ∃ t, element c n effect s = .next t ∧ t.phase = .fault ∧ t.err = some c.exhaustion :=
  ⟨_, element_raises effect hc hl, State.raise_phase .., State.raise_err ..⟩

/-! ### LEND -/

/-- Settles O22: the two bits are consumed, and `ISRUN`, now set, is all the RUN context needs besides the
unchanged phase and `CNT < TOTAL`. -/
theorem lendEndsTheLiteralPacket : Obligations.LendEndsTheLiteralPacket := by
  intro s hphase hrun hcnt
  have hc := contextOf_literal.mpr ⟨hphase, hcnt, hrun⟩
  exact ⟨fun hl => ⟨execLend_runs hc hl, contextOf_run.mpr ⟨hphase, hcnt, rfl⟩⟩,
    element_faults (effectOf .lend) hc⟩

/-! ### LIT -/

/-- LIT whose two bits are there stores the bits of its pair; `ISRUN` is not written. -/
theorem execLit_runs {p : Pair} {s : State} (hc : contextOf s = some .literal) (hT : s.total.toNat ≤ 1568)
    (hl : s.cur + 2 ≤ s.len) :
    execLit p s = .next { s with
      cur := s.cur + 2
      cnt := BitVec.ofNat 11 (s.cnt.toNat + 1)
      planeP := if s.phase = .planeP then s.planeP.write (2 * s.cnt.toNat) (pairBits p) else s.planeP
      planeS := if s.phase = .planeS then s.planeS.write (2 * s.cnt.toNat) (pairBits p) else s.planeS
      phase := if s.cnt.toNat + 1 = s.total.toNat then (if s.phase = .planeP then .modef else .merge)
        else s.phase } := by
  obtain ⟨hphase, hcnt, -⟩ := contextOf_literal.mp hc
  rw [execLit, element_runs _ hc hl]
  exact emitPairs_runs_of_fits (ps := [p]) (s := s.advance 2) _ hphase hcnt hT

/-- Each LIT is `execLit` of the pair that its two bits spell. -/
theorem exec_lit_eq_execLit {i : Instr} {b1 b0 : Bit}
    (h : (i, b1, b0) ∈ [(Instr.lit1, false, true), (.lit2, true, false), (.lit3, true, true)]) :
    ∃ p, exec i = execLit p ∧ pairBits p = [b1, b0] := by
  simp only [List.mem_cons, List.not_mem_nil, or_false, Prod.mk.injEq] at h
  obtain ⟨rfl, rfl, rfl⟩ | ⟨rfl, rfl, rfl⟩ | ⟨rfl, rfl, rfl⟩ := h
  · exact ⟨1, rfl, rfl⟩
  · exact ⟨2, rfl, rfl⟩
  · exact ⟨3, rfl, rfl⟩

/-- Settles O21: the three elements are one meaning at three pairs, an emission of one pair, which fits since
`CNT < TOTAL`. -/
theorem litEmitsItsPair : Obligations.LitEmitsItsPair := by
  intro i b1 b0 s hi hphase hrun hcnt hT
  have hc := contextOf_literal.mpr ⟨hphase, hcnt, hrun⟩
  obtain ⟨p, hexec, hbits⟩ := exec_lit_eq_execLit hi
  rw [hexec, ← hbits]
  exact ⟨execLit_runs hc hT, element_faults _ hc⟩

/-! ### RUN -/

/-- A RUN of a legal codeword leaves the registers of the varint unit in closed form (rule R102) and stores the
zero-pairs that the plane still needs. -/
theorem emitRun_runs {k m : Nat} (v : Nat) {s : State} (hk : 1 ≤ k)
    (hp : s.phase = .planeP ∨ s.phase = .planeS) (hcnt : s.cnt < s.total) (hT : s.total.toNat ≤ 1568)
    (hm : m = runPairs (2 ^ k + v - 1) s.total.toNat s.cnt.toNat) :
    emitRun k v s = .next { s with
      k := k, pv := 2 ^ k - 2, rv := v, n := 2 ^ k + v - 1
      isRun := false
      cnt := BitVec.ofNat 11 (s.cnt.toNat + m)
      planeP := if s.phase = .planeP then s.planeP.write (2 * s.cnt.toNat) (List.replicate (2 * m) false)
        else s.planeP
      planeS := if s.phase = .planeS then s.planeS.write (2 * s.cnt.toNat) (List.replicate (2 * m) false)
        else s.planeS
      phase := if s.cnt.toNat + m = s.total.toNat then (if s.phase = .planeP then .modef else .merge)
        else s.phase } := by
  have hfit : s.cnt.toNat + (List.replicate m 0#2).length ≤ s.total.toNat := by
    rw [BitVec.lt_def] at hcnt
    rw [List.length_replicate, hm, runPairs]
    omega
  have hemit := emitPairs_runs_of_fits (s := s.setVarint k (2 ^ k - 2) v (2 ^ k + v - 1)) isRunAfterRun hp hfit hT
  rw [pairBits_zeros, List.length_replicate] at hemit
  rw [emitRun, runPrefixValue_eq hk, runLength_eq hk, State.setVarint_n, State.setVarint_total,
    State.setVarint_cnt, ← hm]
  exact hemit

/-- In a plane that is not complete a RUN emits at least one pair, as its length is one or more (rule R118). -/
theorem runPairs_pos {k v total cnt : Nat} (hk : 1 ≤ k) (hcnt : cnt < total) :
    1 ≤ runPairs (2 ^ k + v - 1) total cnt := by
  have hlen := runLength_pos k v
  rw [runLength_eq hk] at hlen
  rw [runPairs]
  omega

/-- Settles O20: every form runs as `execRun` of its prefix length and residual, whose run length is at least 1
and whose pairs are cut to what the plane still needs. -/
theorem runEmitsItsZeroPairs : Obligations.RunEmitsItsZeroPairs := by
  intro i k v m s hi hw hphase hrun hcnt hT hm
  obtain ⟨hk, -⟩ := runInstr_of_runFields hi hw
  have hc := contextOf_run.mpr ⟨hphase, hcnt, hrun⟩
  rw [exec_of_runFields hi, execRun]
  refine ⟨hm ▸ runPairs_pos hk hcnt, fun hl => ?_, element_faults _ hc⟩
  rw [element_runs _ hc hl]
  exact emitRun_runs (s := s.advance (2 * k)) v hk hphase hcnt hT hm

end Sys2Proof.Machine

/-!
SUPPORT. 42_combiner.md: the function `Combine` rejects unequal planes (rule R141) and merges equal ones bit by
bit (rule R142).
-/

namespace Sys2Proof.Machine

/-! ### Combine -/

/-- Rule R142: a pixel's sum is at most 3, so its two-bit word does not cut it. -/
@[simp] theorem mergePixel_aIsLow_toNat (x y : Bit) : (mergePixel .aIsLow x y).toNat = x.toNat + 2 * y.toNat := by
  cases x <;> cases y <;> rfl

@[simp] theorem mergePixel_aIsHigh_toNat (x y : Bit) : (mergePixel .aIsHigh x y).toNat = 2 * x.toNat + y.toNat := by
  cases x <;> cases y <;> rfl

theorem combine_of_length_ne {a b : Bits} (o : Order) (h : a.length ≠ b.length) :
    combine a b o = .error .planeLengthMismatch :=
  if_neg h

theorem combine_of_length_eq {a b : Bits} (o : Order) (h : a.length = b.length) :
    combine a b o = .ok (List.zipWith (mergePixel o) a b) :=
  if_pos h

/-- Settles O27: on equal planes the merged list is `mergePixel` index by index, and `mergePixel` is the sum of
rule R142 in both orders. -/
theorem combineMergesBitByBit : Obligations.CombineMergesBitByBit := by
  refine ⟨fun _ _ o h => combine_of_length_ne o h, fun a b o h => ⟨_, combine_of_length_eq o h, ?_, ?_⟩⟩
  · rw [List.length_zipWith, h, Nat.min_self]
  · intro i x y hx hy
    refine ⟨mergePixel o x y, List.getElem?_zipWith_eq_some.mpr ⟨x, y, hx, hy, rfl⟩, ?_⟩
    cases o with
    | aIsLow => exact mergePixel_aIsLow_toNat x y
    | aIsHigh => exact mergePixel_aIsHigh_toNat x y

end Sys2Proof.Machine

/-!
SUPPORT. 43_assembler.md: the place each sprite pixel has in `pixels`, and the two values an element of the grid can
have (rule R153).
-/

namespace Sys2Proof.Machine

/-! ### A pixel's place in the sprite -/

/-- A pixel of a tile of the sprite has its place below `W * H * 64`. -/
theorem pixelIndex_lt {w h tx ty r c : Nat} (htx : tx < w) (hty : ty < h) (hr : r < 8) (hc : c < 8) :
    (ty * w + tx) * 64 + r * 8 + c < w * h * 64 := by
  have htile : (ty + 1) * w ≤ h * w := Nat.mul_le_mul_right w hty
  rw [Nat.add_one_mul] at htile
  rw [Nat.mul_comm w h]
  omega

/-- Two pixels with one place in the sprite are one pixel: the place spells column, row and tile in mixed radix. -/
theorem pixelIndex_inj {w tx ty r c tx' ty' r' c' : Nat} (htx : tx < w) (hr : r < 8) (hc : c < 8)
    (htx' : tx' < w) (hr' : r' < 8) (hc' : c' < 8)
    (he : (ty * w + tx) * 64 + r * 8 + c = (ty' * w + tx') * 64 + r' * 8 + c') :
    tx = tx' ∧ ty = ty' ∧ r = r' ∧ c = c' := by
  have htile : ty * w + tx = ty' * w + tx' := by omega
  have hx : tx = tx' := by
    simpa [Nat.mul_add_mod_self_right, Nat.mod_eq_of_lt htx, Nat.mod_eq_of_lt htx'] using congrArg (· % w) htile
  subst hx
  have hy : ty = ty' := Nat.eq_of_mul_eq_mul_right (Nat.zero_lt_of_lt htx) (Nat.add_right_cancel htile)
  subst hy
  omega

/-! ### An element of the grid -/

/-- Inside the sprite, the grid's element is the sprite's pixel there. -/
theorem gridPixel_of_inside {xs : List Pixel} {w h y x : Nat} {o : Offset} (hl : xs.length = w * h * 64)
    (hx : o.ox ≤ x / 8 ∧ x / 8 < o.ox + w) (hy : o.oy ≤ y / 8 ∧ y / 8 < o.oy + h) :
    xs[((y / 8 - o.oy) * w + (x / 8 - o.ox)) * 64 + y % 8 * 8 + x % 8]? = some (gridPixel xs w h o y x) := by
  have hlt : ((y / 8 - o.oy) * w + (x / 8 - o.ox)) * 64 + y % 8 * 8 + x % 8 < xs.length :=
    hl ▸ pixelIndex_lt (by omega) (by omega) (Nat.mod_lt _ (by decide)) (Nat.mod_lt _ (by decide))
  have hgrid : gridPixel xs w h o y x =
      xs.getD (((y / 8 - o.oy) * w + (x / 8 - o.ox)) * 64 + y % 8 * 8 + x % 8) 0 := if_pos ⟨hx.1, hx.2, hy⟩
  rw [hgrid, List.getD_eq_getElem _ _ hlt, List.getElem?_eq_getElem hlt]

/-- Inside the sprite, by tile and by row and column of the tile. -/
theorem gridPixel_of_tile {xs : List Pixel} {w h tx ty r c : Nat} (o : Offset) (hl : xs.length = w * h * 64)
    (htx : tx < w) (hty : ty < h) (hr : r < 8) (hc : c < 8) :
    xs[(ty * w + tx) * 64 + r * 8 + c]? =
      some (gridPixel xs w h o (8 * (o.oy + ty) + r) (8 * (o.ox + tx) + c)) := by
  have hydiv : (8 * (o.oy + ty) + r) / 8 = o.oy + ty := by omega
  have hxdiv : (8 * (o.ox + tx) + c) / 8 = o.ox + tx := by omega
  have hymod : (8 * (o.oy + ty) + r) % 8 = r := by omega
  have hxmod : (8 * (o.ox + tx) + c) % 8 = c := by omega
  have hin := gridPixel_of_inside (y := 8 * (o.oy + ty) + r) (x := 8 * (o.ox + tx) + c) (o := o) hl
    (by omega) (by omega)
  rwa [hydiv, hxdiv, hymod, hxmod, Nat.add_sub_cancel_left, Nat.add_sub_cancel_left] at hin

/-- Outside the sprite, the grid's element is 0. -/
theorem gridPixel_of_outside {w h y x : Nat} {o : Offset} (xs : List Pixel)
    (hout : ¬ (o.ox ≤ x / 8 ∧ x / 8 < o.ox + w ∧ o.oy ≤ y / 8 ∧ y / 8 < o.oy + h)) :
    gridPixel xs w h o y x = 0 :=
  if_neg hout

/-- The grid's element as rule R153 writes it, with integer tile coordinates. -/
theorem gridPixel_eq_integerTile {xs : List Pixel} {w h : Nat} {o : Offset} (hl : xs.length = w * h * 64)
    (y x : Nat) :
    let tx : Int := (x / 8 : Nat) - (o.ox : Int)
    let ty : Int := (y / 8 : Nat) - (o.oy : Int)
    some (gridPixel xs w h o y x) =
      if 0 ≤ tx ∧ tx < w ∧ 0 ≤ ty ∧ ty < h then
        xs[((ty * w + tx) * 64 + ((y % 8) * 8 + x % 8 : Nat)).toNat]?
      else some 0 := by
  intro tx ty
  split
  case isTrue hin =>
    obtain ⟨hx0, hxw, hy0, hyh⟩ := hin
    have htx : tx = (x / 8 - o.ox : Nat) := by omega
    have hty : ty = (y / 8 - o.oy : Nat) := by omega
    have hindex : ((ty * w + tx) * 64 + ((y % 8) * 8 + x % 8 : Nat)).toNat =
        ((y / 8 - o.oy) * w + (x / 8 - o.ox)) * 64 + y % 8 * 8 + x % 8 := by
      rw [htx, hty, Nat.add_assoc]
      exact Int.toNat_natCast _
    rw [hindex, gridPixel_of_inside hl (by omega) (by omega)]
  case isFalse hout => rw [gridPixel_of_outside xs (by omega)]

/-! ### Assemble -/

theorem assemble_of_length_eq {xs : List Pixel} {w h : Nat} {o : Offset} (hd : assembleDomain w h o = true)
    (hl : xs.length = w * h * 64) : assemble xs w h o = .ok (.ok (grid xs w h o)) := by
  rw [assemble, if_pos hd, if_pos hl]

/-- Settles O30: an element of the grid is `gridPixel` of its row and column, which is rule R153's case split; a sprite
pixel's place determines its tile, row and column, so it is laid once. -/
theorem assembleLaysTheTiles : Obligations.AssembleLaysTheTiles := by
  intro pixels w h o hl hw hh hox hoy
  have hd : assembleDomain w h o = true := (assembleDomain_iff w h o).mpr (by omega)
  refine ⟨_, assemble_of_length_eq hd hl, grid_length .., ?_, ?_⟩
  · intro y x hy hx
    rw [grid_get pixels w h o hy hx]
    exact gridPixel_eq_integerTile hl y x
  · intro tx ty r c htx hty hr hc
    refine ⟨⟨_, gridPixel_of_tile o hl htx hty hr hc, grid_get pixels w h o (by omega) (by omega)⟩, ?_⟩
    intro y x hy0 hyh hx0 hxw he
    obtain ⟨hxt, hyt, hrow, hcol⟩ := pixelIndex_inj (by omega) (Nat.mod_lt _ (by decide))
      (Nat.mod_lt _ (by decide)) htx hr hc he
    omega

end Sys2Proof.Machine

/-!
SUPPORT. 44_sprite_decoder.md: what DIM, ORD and PTP leave, as whole next states (rules R170 to R172).
-/

namespace Sys2Proof.Machine

/-! ### DIM -/

/-- Dimensions in 1..7 need at most 1568 pairs, which the word of `TOTAL` holds (rules R32, R170). -/
theorem totalPairs_toNat {h w : BitVec 4} (hd : dimsLegal h w = true) :
    (totalPairs w h).toNat = w.toNat * h.toNat * 32 := by
  obtain ⟨-, hh, -, hw⟩ := (dimsLegal_iff h w).mp hd
  have htiles : w.toNat * h.toNat ≤ 7 * 7 := Nat.mul_le_mul hw hh
  rw [totalPairs, Config.pairsPerTile, BitVec.toNat_ofNat]
  omega

theorem latchDims_of_legal {h w : BitVec 4} (s : State) (hd : dimsLegal h w = true) :
    latchDims h w s = .next ((s.setDims h w (totalPairs w h)).setPhase .ordf) :=
  if_pos hd

theorem latchDims_of_illegal {h w : BitVec 4} (s : State) (hd : ¬ dimsLegal h w = true) :
    latchDims h w s = .next (s.raise .invalidDimensions) :=
  if_neg hd

/-- Settles O14: the context is the phase, `LEN` is tested before the nibbles, and `dimsLegal` is the range test
on both. -/
theorem dimLatchesTheDimensions : Obligations.DimLatchesTheDimensions := by
  intro h w s hp
  have hc := contextOf_hdr.mpr hp
  refine ⟨fun hl hh1 hh7 hw1 hw7 => ?_, fun hl hout => ?_, element_faults (effectOf (.dim h w)) hc⟩
  · have hd : dimsLegal h w = true := (dimsLegal_iff h w).mpr ⟨hh1, hh7, hw1, hw7⟩
    exact ⟨(exec_runs (i := .dim h w) hc hl).trans (latchDims_of_legal _ hd), totalPairs_toNat hd⟩
  · have hd : ¬ dimsLegal h w = true := by
      rw [dimsLegal_iff]
      omega
    exact ⟨_, (exec_runs (i := .dim h w) hc hl).trans (latchDims_of_illegal _ hd), State.raise_phase ..,
      State.raise_err ..⟩

/-! ### ORD -/

/-- Settles O15: the bit is consumed and the effect is the latch and the phase. -/
theorem ordLatchesTheFlag : Obligations.OrdLatchesTheFlag := by
  intro f s hp
  have hc := contextOf_ordf.mpr hp
  exact ⟨exec_runs (i := .ord f) hc, element_faults (effectOf (.ord f)) hc⟩

/-! ### PTP -/

/-- In a plane phase that still needs pairs, `ISRUN` alone selects the context (rule R168). -/
theorem contextOf_incompletePlane {s : State} (hp : s.phase = .planeP ∨ s.phase = .planeS)
    (hcnt : s.cnt < s.total) : contextOf s = some (if s.isRun then .run else .literal) := by
  cases hr : s.isRun with
  | true => exact contextOf_run.mpr ⟨hp, hcnt, hr⟩
  | false => exact contextOf_literal.mpr ⟨hp, hcnt, hr⟩

/-- PTP whose bit is there, as one record. -/
theorem execPtp_runs {t : Bit} {s : State} (hc : contextOf s = some .ptypeP) (hl : s.cur + 1 ≤ s.len) :
    exec (.ptp t) s =
      .next { s with cur := s.cur + 1, isRun := (t == false), cnt := 0, phase := .planeP } := by
  have hrun : (t == false) = startsWithRun t := by cases t <;> rfl
  rw [hrun]
  exact exec_runs (i := .ptp t) hc hl

/-- Settles O16: the plane begins with `CNT = 0`, below `TOTAL`, so the latched `ISRUN` selects the context. -/
theorem ptpBeginsThePrimaryPlane : Obligations.PtpBeginsThePrimaryPlane := by
  intro t s hp
  have hc := contextOf_ptypeP.mpr hp
  refine ⟨fun hl => ⟨execPtp_runs hc hl, fun htotal => ?_⟩, element_faults (effectOf (.ptp t)) hc⟩
  have hcnt : 0 < s.total := by
    rw [BitVec.lt_def]
    exact Nat.lt_of_lt_of_le (by decide) htotal
  rw [contextOf_incompletePlane (.inl rfl) hcnt]
  cases t <;> rfl

end Sys2Proof.Machine

/-!
SUPPORT. 60_exceptions.md: the elements read as one field of a fixed length, the test on the whole field, and the errors
that are left when the field is there (rule R203).
-/

namespace Sys2Proof

/-! ### Elements read as one field -/

theorem pairInstr_ctx (p : Nat) : (pairInstr p).ctx = .literal := by
  unfold pairInstr
  split <;> rfl

theorem pairInstr_length (p : Nat) : (pairInstr p).length = 2 := by
  unfold pairInstr
  split <;> rfl

theorem modeInstr_ctx (m : Nat) : (modeInstr m).ctx = .modef := by
  unfold modeInstr
  split <;> rfl

theorem modeInstr_length (m : Nat) : (modeInstr m).length = 2 := by
  unfold modeInstr
  split <;> rfl

/-- The elements of context `c` are one `ReadBits(n)` each, and `f` gives the element of the value read. -/
structure ReadsField (c : Ctx) (n : Nat) (f : Nat → Instr) : Prop where
  pos : 0 < n
  ctx : ∀ v, (f v).ctx = c
  length : ∀ v, (f v).length = n
  decode_eq : ∀ bits, decode c bits = (readField n bits).map (Prod.map f id)

/-- Every context but RUN reads its element so (rule R203). -/
theorem exists_readsField {c : Ctx} {n : Nat}
    (h : (c, n) ∈ [(Ctx.hdr, 8), (.ordf, 1), (.ptypeP, 1), (.ptypeS, 1), (.literal, 2), (.modef, 2)]) :
    ∃ f, ReadsField c n f := by
  simp only [List.mem_cons, List.not_mem_nil, or_false, Prod.mk.injEq] at h
  obtain ⟨rfl, rfl⟩ | ⟨rfl, rfl⟩ | ⟨rfl, rfl⟩ | ⟨rfl, rfl⟩ | ⟨rfl, rfl⟩ | ⟨rfl, rfl⟩ := h
  · exact ⟨fun b => .dim (BitVec.ofNat 4 (b / 16)) (BitVec.ofNat 4 b), by decide, fun _ => rfl, fun _ => rfl,
      fun bits => by simp only [decode]; cases readField 8 bits <;> rfl⟩
  · exact ⟨fun f => .ord (f.testBit 0), by decide, fun _ => rfl, fun _ => rfl,
      fun bits => by simp only [decode]; cases readField 1 bits <;> rfl⟩
  · exact ⟨fun t => .ptp (t.testBit 0), by decide, fun _ => rfl, fun _ => rfl,
      fun bits => by simp only [decode]; cases readField 1 bits <;> rfl⟩
  · exact ⟨fun t => .pts (t.testBit 0), by decide, fun _ => rfl, fun _ => rfl,
      fun bits => by simp only [decode]; cases readField 1 bits <;> rfl⟩
  · exact ⟨pairInstr, by decide, pairInstr_ctx, pairInstr_length,
      fun bits => by simp only [decode]; cases readField 2 bits <;> rfl⟩
  · exact ⟨modeInstr, by decide, modeInstr_ctx, modeInstr_length,
      fun bits => by simp only [decode]; cases readField 2 bits <;> rfl⟩

namespace ReadsField

variable {c : Ctx} {n : Nat} {f : Nat → Instr} {bits : Bits}

theorem decode_short (hf : ReadsField c n f) (h : bits.length < n) : decode c bits = .error .cursorExhausted := by
  rw [hf.decode_eq, readField, if_pos h]
  rfl

theorem decode_whole (hf : ReadsField c n f) (h : n ≤ bits.length) :
    decode c bits = .ok (f (value (bits.take n)), bits.drop n) := by
  rw [hf.decode_eq, readField, if_neg (Nat.not_lt.mpr h)]
  rfl

end ReadsField

namespace Machine

/-! ### The errors of an element whose bits are there -/

theorem phase_ne_fault_of_contextOf {s : State} {c : Ctx} (h : contextOf s = some c) : s.phase ≠ .fault := by
  intro hp
  simp [contextOf, hp] at h

/-- DIM's range test and the reserved mode are all that an element raises once its bits are consumed. -/
theorem effectOf_err_of_fault {i : Instr} {s t : State} (h : effectOf i s = .next t) (hp : s.phase ≠ .fault)
    (ht : t.phase = .fault) : t.err = some .invalidDimensions ∨ t.err = some .reservedMode := by
  cases i
  case dim =>
    obtain ⟨-, rfl⟩ | ⟨-, rfl⟩ := latchDims_cases h
    · cases ht
    · exact .inl rfl
  case mode1 | mode2 | mode3 | modeRsv =>
    obtain ⟨-, rfl⟩ | ⟨-, rfl⟩ := latchMode_cases h
    · cases ht
    · exact .inr rfl
  case ord | ptp | pts =>
    cases h
    cases ht
  case lend =>
    cases h
    exact absurd ht hp
  -- LIT and RUN emit pairs.
  all_goals exact absurd ht (emitPairs_phase_ne_fault h hp)

/-- An element whose bits are there raises no exhaustion error. -/
theorem exec_ne_cursorExhausted {i : Instr} {s t : State} (hc : contextOf s = some i.ctx)
    (hl : s.cur + i.length ≤ s.len) (h : exec i s = .next t) :
    ¬ (t.phase = .fault ∧ t.err = some .cursorExhausted) := by
  rintro ⟨ht, he⟩
  rw [exec_runs hc hl] at h
  have herr := effectOf_err_of_fault h (phase_ne_fault_of_contextOf hc) ht
  simp [he] at herr

/-- Settles O8: `decode` is `ReadBits` of the whole field, and an element whose field is there raises at most an
error of its own. -/
theorem shortFieldRaisesCursorExhausted : Obligations.ShortFieldRaisesCursorExhausted := by
  intro s c n hn hc
  obtain ⟨f, hf⟩ := exists_readsField hn
  have hrem := remaining_length s
  have hpos := hf.pos
  refine ⟨fun hl => step_raises hc (hf.decode_short (by omega)), fun hl => ?_⟩
  have hs := step_runs hc (hf.decode_whole (by omega))
  refine ⟨⟨_, hf.ctx _, hs⟩, fun t ht => ?_⟩
  rw [hs] at ht
  exact exec_ne_cursorExhausted (by rwa [hf.ctx]) (by rwa [hf.length]) ht

end Machine

end Sys2Proof

/-!
SUPPORT. 30_encoding.md and 40_varint.md: `decode` and `encode`, and the varint unit and the reference encoder, are
inverse to each other (rules R72, R78, R86, R102).
-/

namespace Sys2Proof

/-! ### Fields -/

theorem value_append (s t : Bits) : value (s ++ t) = value s * 2 ^ t.length + value t := by
  rw [value, valueFrom_append, valueFrom_eq, ← value]

theorem bitsOf_mod (n v : Nat) : bitsOf n (v % 2 ^ n) = bitsOf n v := by
  conv_rhs => rw [← Nat.div_add_mod' v (2 ^ n), bitsOf_add_mul]

/-- A field is its high part followed by its low part. -/
theorem bitsOf_append (m n v : Nat) : bitsOf (m + n) v = bitsOf m (v / 2 ^ n) ++ bitsOf n v := by
  induction m with
  | zero => simp [bitsOf]
  | succ m ih =>
    rw [Nat.add_right_comm, bitsOf, ih, bitsOf, Nat.testBit_div_two_pow, List.cons_append, Nat.add_comm m n]

/-- A flag is its own one-bit field. -/
theorem readField_flag (b : Bit) (rest : Bits) : readField 1 (b :: rest) = .ok (b.toNat, rest) := by
  cases b <;> exact readField_append (s := [_]) rfl rest

/-! ### Decode after encode -/

theorem decode_encode_dim (h w : BitVec 4) (rest : Bits) :
    decode .hdr (encode (.dim h w) ++ rest) = .ok (.dim h w, rest) := by
  have hv : value (encode (.dim h w)) = h.toNat * 2 ^ 4 + w.toNat := by
    rw [encode, value_append, value_bitsOf_of_lt h.isLt, value_bitsOf_of_lt w.isLt, bitsOf_length]
  have hr : readField 8 (encode (.dim h w) ++ rest) = .ok (h.toNat * 2 ^ 4 + w.toNat, rest) :=
    hv ▸ readField_append rfl rest
  have hh : BitVec.ofNat 4 ((h.toNat * 2 ^ 4 + w.toNat) / 16) = h := by
    rw [show (h.toNat * 2 ^ 4 + w.toNat) / 16 = h.toNat by omega, BitVec.ofNat_toNat, BitVec.setWidth_eq]
  have hw : BitVec.ofNat 4 (h.toNat * 2 ^ 4 + w.toNat) = w := by
    apply BitVec.eq_of_toNat_eq
    rw [BitVec.toNat_ofNat]
    omega
  simp only [decode, hr, hh, hw]

theorem decode_encode_of_runFields {i : Instr} {k v : Nat} (hi : i.runFields = some (k, v))
    (hw : i.wellFormed = true) (rest : Bits) : decode .run (encode i ++ rest) = .ok (i, rest) := by
  obtain ⟨hk, hv, hinstr, henc, -⟩ := runInstr_of_runFields hi hw
  simp only [decode, henc, varintDecode_append hk hv, hinstr]

/-- Settles O4: a RUN is its codeword, which the varint unit reads back; every other element is one field. -/
theorem decodeOfEncodeIsTheElement : Obligations.DecodeOfEncodeIsTheElement := by
  intro i rest hw
  cases i
  case dim h w => exact decode_encode_dim h w rest
  case ord f | ptp f | pts f => cases f <;> simp [Instr.ctx, encode, decode, readField_flag]
  case lit1 | lit2 | lit3 | lend | mode1 | mode2 | mode3 | modeRsv => rfl
  all_goals exact decode_encode_of_runFields rfl hw rest

/-! ### Encode after decode -/

/-- `bits` begin with `i`, a well-formed element of context `c`, and go on with `rest`. -/
structure BeginsWith (c : Ctx) (i : Instr) (bits rest : Bits) : Prop where
  wellFormed : i.wellFormed = true
  ctx : i.ctx = c
  bits_eq : bits = encode i ++ rest

/-- The bits of a field are those of its element. -/
theorem encode_dim_value {s : Bits} (h : s.length = 8) :
    encode (.dim (BitVec.ofNat 4 (value s / 16)) (BitVec.ofNat 4 (value s))) = s := by
  have hs := bitsOf_value s
  rw [h, bitsOf_append 4 4] at hs
  simp only [encode, BitVec.toNat_ofNat, bitsOf_mod]
  exact hs

theorem encode_pairInstr_value {s : Bits} (h : s.length = 2) : encode (pairInstr (value s)) = s := by
  obtain ⟨a, b, rfl⟩ := List.length_eq_two.mp h
  cases a <;> cases b <;> rfl

theorem encode_modeInstr_value {s : Bits} (h : s.length = 2) : encode (modeInstr (value s)) = s := by
  obtain ⟨a, b, rfl⟩ := List.length_eq_two.mp h
  cases a <;> cases b <;> rfl

theorem testBit_value_flag {s : Bits} (h : s.length = 1) : [(value s).testBit 0] = s := by
  obtain ⟨b, rfl⟩ := List.length_eq_one_iff.mp h
  cases b <;> rfl

theorem pairInstr_wellFormed (p : Nat) : (pairInstr p).wellFormed = true := by
  unfold pairInstr
  split <;> rfl

theorem modeInstr_wellFormed (m : Nat) : (modeInstr m).wellFormed = true := by
  unfold modeInstr
  split <;> rfl

theorem decode_beginsWith {c : Ctx} {i : Instr} {bits rest : Bits} (h : decode c bits = .ok (i, rest)) :
    BeginsWith c i bits rest := by
  cases c
  case run =>
    simp only [decode] at h
    split at h <;> cases h
    obtain ⟨hk, hv, hbits, -⟩ := varintDecode_ok ‹_›
    obtain ⟨hi, hw⟩ := runFields_runInstr hk hv
    obtain ⟨-, -, -, henc, hctx, -⟩ := runInstr_of_runFields hi hw
    exact ⟨hw, hctx, by rw [henc, hbits]⟩
  all_goals
    simp only [decode] at h
    split at h <;> cases h
    obtain ⟨s, rfl, hl, rfl⟩ := readField_ok ‹_›
  -- DIM, then the two flags, the pair, the mode field and the last flag.
  · exact ⟨rfl, rfl, by rw [encode_dim_value hl]⟩
  · exact ⟨rfl, rfl, by rw [encode, testBit_value_flag hl]⟩
  · exact ⟨rfl, rfl, by rw [encode, testBit_value_flag hl]⟩
  · exact ⟨pairInstr_wellFormed _, pairInstr_ctx _, by rw [encode_pairInstr_value hl]⟩
  · exact ⟨modeInstr_wellFormed _, modeInstr_ctx _, by rw [encode_modeInstr_value hl]⟩
  · exact ⟨rfl, rfl, by rw [encode, testBit_value_flag hl]⟩

/-- Rule R73: an element's encoding is as long as the element. -/
theorem encode_length {i : Instr} (hw : i.wellFormed = true) : (encode i).length = i.length := by
  cases i
  case runLong k v => exact Laws.EncodingLength.runLong k v hw
  case dim h w => exact Laws.EncodingLength.dim h w hw
  case ord | ptp | pts | lit1 | lit2 | lit3 | lend | mode1 | mode2 | mode3 | modeRsv => rfl
  all_goals exact Laws.EncodingLength.run (by decide) _

/-- Settles O5: a field is spelled by its value, and a codeword by its prefix length and residual. -/
theorem encodeOfDecodeIsTheBits : Obligations.EncodeOfDecodeIsTheBits := by
  intro c bits rest i h
  obtain ⟨hw, hc, hb⟩ := decode_beginsWith h
  exact ⟨hw, hc, hb, encode_length hw⟩

/-! ### The varint unit -/

/-- A codeword at the head of the bits, with its run length in closed form (rule R102). -/
theorem varintDecode_encodeRun {k v : Nat} (hk : 1 ≤ k) (hv : v < 2 ^ k) (rest : Bits) :
    varintDecode (encodeRun k v ++ rest) = .ok (⟨k, 2 ^ k - 2, v, 2 ^ k + v - 1⟩, rest) := by
  have hn : value (runPrefix k) + v + 1 = 2 ^ k + v - 1 := Machine.runLength_eq hk v
  rw [varintDecode_append hk hv, hn, value_runPrefix hk]

/-- Settles O10: the bits are the codeword of `k` and `v`. -/
theorem varintClosedForm : Obligations.VarintClosedForm := by
  intro k v rest hk hv
  rw [← runPrefix_append, ← List.append_assoc, ← encodeRun]
  exact varintDecode_encodeRun hk hv rest

/-- Every run length is that of one prefix length and residual: `n + 1 = 2^k + v`. -/
theorem exists_codeword_of_pos {n : Nat} (hn : 1 ≤ n) : ∃ k v, 1 ≤ k ∧ v < 2 ^ k ∧ n = 2 ^ k + v - 1 := by
  have hlow : 2 ^ (n + 1).log2 ≤ n + 1 := Nat.log2_self_le (by omega)
  have hhigh : n + 1 < 2 ^ ((n + 1).log2 + 1) := Nat.lt_log2_self
  have hk : 1 ≤ (n + 1).log2 := (Nat.le_log2 (by omega)).mpr (by omega)
  rw [Nat.pow_succ] at hhigh
  exact ⟨_, n + 1 - 2 ^ (n + 1).log2, hk, by omega, by omega⟩

/-- Settles O13: both sides of a run length are its codeword, whose run length is `2^k + v - 1`. -/
theorem varintAndEncoderAreInverse : Obligations.VarintAndEncoderAreInverse := by
  refine ⟨fun n t hn => ?_, fun bits rest r h => ?_⟩
  · obtain ⟨k, v, hk, hv, rfl⟩ := exists_codeword_of_pos hn
    rw [encodeRunLength_eq hk hv]
    exact ⟨_, varintDecode_encodeRun hk hv t, rfl⟩
  · obtain ⟨hk, hv, hbits, hpv, hn⟩ := varintDecode_ok h
    have hpow : 2 ^ 1 ≤ 2 ^ r.k := Nat.pow_le_pow_right (by decide) hk
    have hr : r.n = 2 ^ r.k + r.rv - 1 := by omega
    rw [hr, encodeRunLength_eq hk hv]
    exact ⟨by omega, hbits⟩

/-- Settles O6: the ten words are decoded. -/
theorem patternsDecodeToTheirElements : Obligations.PatternsDecodeToTheirElements := by
  unfold Obligations.PatternsDecodeToTheirElements
  decide

end Sys2Proof

/-!
SUPPORT. What one step of a launch can do, said once: an element's effect, MERGE, ROUTE, or an error raised
(44_sprite_decoder.md sections 1 to 3).
-/

namespace Sys2Proof.Machine

/-! ### MODE_POST -/

theorem modePost_length (c : ModeCfg) (m : BitVec 2) (p q : Bits) :
    (modePost c m p q).1.length = p.length ∧ (modePost c m p q).2.length = q.length := by
  unfold modePost
  split <;> simp

/-- Settles O29: a host's planes are mapped over the indices of the planes given. -/
theorem modePostKeepsTheLengths : Obligations.ModePostKeepsTheLengths :=
  ⟨modePost_length, fun _ _ _ _ => rfl⟩

/-! ### What an element does once its bits are consumed -/

/-- What an element of context `c` that raises nothing makes of the state `s` in which its bits are consumed. RUN
and LIT are one case: both emit pairs that the plane still needs, and only RUN writes the varint registers. -/
inductive Effect : Ctx → State → State → Prop
  | dim {s : State} {h w : BitVec 4} (hp : s.phase = .hdr) (hd : dimsLegal h w = true) :
      Effect .hdr s ((s.setDims h w (totalPairs w h)).setPhase .ordf)
  | ord {s : State} {f : Bit} (hp : s.phase = .ordf) : Effect .ordf s ((s.setOrd f).setPhase .ptypeP)
  | ptp {s : State} {b : Bit} (hp : s.phase = .ptypeP) :
      Effect .ptypeP s (((s.setIsRun b).setCnt 0).setPhase .planeP)
  | emit {c : Ctx} {s : State} {ps : List Pair} {k pv rv n : Nat} (hp : s.phase = .planeP ∨ s.phase = .planeS)
      (hk : c = .run ∨ c = .literal ∧ k = s.k ∧ pv = s.pv ∧ rv = s.rv ∧ n = s.n) (hne : 1 ≤ ps.length)
      (hfit : s.cnt.toNat + ps.length ≤ s.total.toNat)
      (hspace : 2 * s.cnt.toNat + 2 * ps.length ≤ Config.maxPlaneBits) :
      Effect c s (((s.setVarint k pv rv n).emit ps).setIsRun false).completePlane
  | lend {s : State} (hp : s.phase = .planeP ∨ s.phase = .planeS) (hcnt : s.cnt < s.total)
      (hr : s.isRun = false) : Effect .literal s (s.setIsRun true)
  | mode {s : State} {m : BitVec 2} (hp : s.phase = .modef) (hm : m ≠ 0) :
      Effect .modef s ((s.setMode m).setPhase .ptypeS)
  | pts {s : State} {b : Bit} (hp : s.phase = .ptypeS) :
      Effect .ptypeS s (((s.setIsRun b).setCnt 0).setPhase .planeS)

theorem latchDims_effect {h w : BitVec 4} {s t : State} (hp : s.phase = .hdr) (hs : latchDims h w s = .next t) :
    Effect .hdr s t ∨ ∃ e, t = s.raise e := by
  obtain ⟨hd, rfl⟩ | ⟨-, rfl⟩ := latchDims_cases hs
  · exact .inl (.dim hp hd)
  · exact .inr ⟨_, rfl⟩

theorem latchMode_effect {m : BitVec 2} {s t : State} (hp : s.phase = .modef) (hs : latchMode m s = .next t) :
    Effect .modef s t ∨ ∃ e, t = s.raise e := by
  obtain ⟨hm, rfl⟩ | ⟨-, rfl⟩ := latchMode_cases hs
  · exact .inl (.mode hp hm)
  · exact .inr ⟨_, rfl⟩

theorem emitRun_effect {k v : Nat} {s t : State} (hc : contextOf s = some .run)
    (hs : emitRun k v s = .next t) : Effect .run s t := by
  obtain ⟨hp, hcnt, -⟩ := contextOf_run.mp hc
  obtain ⟨hspace, rfl⟩ := emitRun_cases hs
  have hpos := runLength_pos k v
  rw [BitVec.lt_def] at hcnt
  refine .emit hp (.inl rfl) ?_ ?_ ?_ <;> rw [List.length_replicate]
  · rw [runPairs]; omega
  · rw [runPairs]; omega
  · exact hspace

theorem emitLit_effect {p : Pair} {s t : State} (hc : contextOf s = some .literal)
    (hs : emitPairs [p] s.isRun s = .next t) : Effect .literal s t := by
  obtain ⟨hp, hcnt, hr⟩ := contextOf_literal.mp hc
  obtain ⟨hspace, rfl⟩ := emitPairs_cases hs
  rw [BitVec.lt_def] at hcnt
  rw [hr]
  exact .emit (k := s.k) (pv := s.pv) (rv := s.rv) (n := s.n) hp (.inr ⟨rfl, rfl, rfl, rfl, rfl⟩) le_rfl hcnt hspace

theorem effectOf_effect {i : Instr} {s t : State} (hc : contextOf s = some i.ctx)
    (hs : effectOf i s = .next t) : Effect i.ctx s t ∨ ∃ e, t = s.raise e := by
  cases i
  case dim => exact latchDims_effect (contextOf_hdr.mp hc) hs
  case ord => cases hs; exact .inl (.ord (contextOf_ordf.mp hc))
  case ptp => cases hs; exact .inl (.ptp (contextOf_ptypeP.mp hc))
  case lit1 | lit2 | lit3 => exact .inl (emitLit_effect hc hs)
  case lend =>
    cases hs
    obtain ⟨hp, hcnt, hr⟩ := contextOf_literal.mp hc
    exact .inl (.lend hp hcnt hr)
  case mode1 | mode2 | mode3 | modeRsv => exact latchMode_effect (contextOf_modef.mp hc) hs
  case pts => cases hs; exact .inl (.pts (contextOf_ptypeS.mp hc))
  -- RUN in every form.
  all_goals exact .inl (emitRun_effect hc hs)

/-- An instruction with a next state has its effect after its bits, or raises an error, which keeps nothing of
the cursor it was raised at. -/
theorem exec_effect {i : Instr} {s t : State} (h : exec i s = .next t) :
    (contextOf s = some i.ctx ∧ s.cur + i.length ≤ s.len ∧ Effect i.ctx (s.advance i.length) t) ∨
      ∃ e, t = s.raise e := by
  rw [exec_eq_element] at h
  obtain ⟨hc, ⟨hl, he⟩ | ⟨-, rfl⟩⟩ := element_cases h
  · obtain heff | ⟨e, rfl⟩ := effectOf_effect (s := s.advance i.length) hc he
    · exact .inl ⟨hc, hl, heff⟩
    · exact .inr ⟨e, rfl⟩
  · exact .inr ⟨_, rfl⟩

/-! ### MERGE and ROUTE raise nothing -/

/-- The pixels MERGE makes of the planes `p` and `q` it read (rule R145). -/
def State.mergedPixels (s : State) (p q : Bits) : List Pixel :=
  List.zipWith (mergePixel (orderOf s.ord)) (modePost s.launch.modeCfg s.mode p q).1
    (modePost s.launch.modeCfg s.mode p q).2

section
variable {s : State} {p q : Bits} (hP : s.planeP.readRange 0 (2 * s.total.toNat) = some p)
  (hQ : s.planeS.readRange 0 (2 * s.total.toNat) = some q)
include hP hQ

/-- The planes read are equally long, and `MODE_POST` keeps their lengths. -/
theorem modePost_planes_length :
    (modePost s.launch.modeCfg s.mode p q).1.length = 2 * s.total.toNat ∧
      (modePost s.launch.modeCfg s.mode p q).2.length = 2 * s.total.toNat := by
  obtain ⟨hlp, hlq⟩ := modePost_length s.launch.modeCfg s.mode p q
  exact ⟨hlp.trans (Memory.readRange_some hP).1, hlq.trans (Memory.readRange_some hQ).1⟩

theorem mergedPixels_length : (s.mergedPixels p q).length = 2 * s.total.toNat := by
  obtain ⟨hlp, hlq⟩ := modePost_planes_length hP hQ
  rw [State.mergedPixels, List.length_zipWith, hlp, hlq, Nat.min_self]

theorem execMerge_of_planes (hp : s.phase = .merge) (hspace : 2 * s.total.toNat ≤ Config.maxPlaneBits) :
    execMerge s = .next ((s.writePix (s.mergedPixels p q)).setPhase .route) := by
  obtain ⟨hlp, hlq⟩ := modePost_planes_length hP hQ
  rw [execMerge_runs hp hP hQ, mergePlanes_runs s (hlp.trans hlq.symm) (hlp ▸ hspace)]
  rfl

end

/-- MERGE that has a next state wrote its pixels: planes of one length cannot mismatch. -/
theorem execMerge_pixels {s t : State} (h : execMerge s = .next t) : s.phase = .merge ∧
    ∃ p q, s.planeP.readRange 0 (2 * s.total.toNat) = some p ∧
      s.planeS.readRange 0 (2 * s.total.toNat) = some q ∧ 2 * s.total.toNat ≤ Config.maxPlaneBits ∧
      t = (s.writePix (s.mergedPixels p q)).setPhase .route := by
  obtain ⟨hp, p, q, hP, hQ, hm⟩ := execMerge_cases h
  obtain ⟨hlp, hlq⟩ := modePost_planes_length hP hQ
  obtain ⟨-, hspace, rfl⟩ | ⟨hne, -⟩ := mergePlanes_cases hm
  · exact ⟨hp, p, q, hP, hQ, hlp ▸ hspace, rfl⟩
  · exact absurd (hlp.trans hlq.symm) hne

/-- ROUTE that has a next state wrote the grid: the pixels read are as many as `Assemble` asks for. -/
theorem execRoute_grid {s t : State} (h : execRoute s = .next t) : s.phase = .route ∧
    ∃ xs, s.pix.readRange 0 (s.tw.toNat * s.th.toNat * Config.tilePixels) = some xs ∧
      assembleDomain s.tw.toNat s.th.toNat (placeAt s.launch.place s.tw.toNat s.th.toNat) = true ∧
      t = (s.writeCanvas (grid xs s.tw.toNat s.th.toNat
        (placeAt s.launch.place s.tw.toNat s.th.toNat))).setPhase .done := by
  obtain ⟨hp, xs, hr, hx⟩ := execRoute_cases h
  obtain ⟨hd, ⟨-, rfl⟩ | ⟨hne, -⟩⟩ := routePixels_cases hx
  · exact ⟨hp, xs, hr, hd, rfl⟩
  · exact absurd (Memory.readRange_some hr).1 hne

/-! ### One step of a launch -/

theorem length_pos_of_wellFormed {i : Instr} (hw : i.wellFormed = true) : 1 ≤ i.length := by
  cases i
  case runLong k v =>
    simp only [Instr.wellFormed, Bool.and_eq_true, decide_eq_true_eq] at hw
    simp only [Instr.length]
    omega
  all_goals simp [Instr.length]

/-- What a step from a phase `HDR` to `ROUTE` can do. -/
inductive LaunchStep : State → State → Prop
  | element {c : Ctx} {n : Nat} {s t : State} (hc : contextOf s = some c) (hn : 1 ≤ n) (hl : s.cur + n ≤ s.len)
      (he : Effect c (s.advance n) t) : LaunchStep s t
  | merge {s : State} {xs : List Pixel} (hp : s.phase = .merge) (hlen : xs.length = 2 * s.total.toNat)
      (hspace : xs.length ≤ Config.maxPlaneBits) : LaunchStep s ((s.writePix xs).setPhase .route)
  | route {s : State} {g : List Pixel} (hp : s.phase = .route) (hlen : g.length = 56 * 56) :
      LaunchStep s ((s.writeCanvas g).setPhase .done)
  | raise {s : State} (e : DecodeError) : LaunchStep s (s.raise e)

theorem execMerge_launchStep {s t : State} (h : execMerge s = .next t) : LaunchStep s t := by
  obtain ⟨hp, p, q, hP, hQ, hspace, rfl⟩ := execMerge_pixels h
  have hlen := mergedPixels_length hP hQ
  exact .merge hp hlen (hlen ▸ hspace)

theorem execRoute_launchStep {s t : State} (h : execRoute s = .next t) : LaunchStep s t := by
  obtain ⟨hp, xs, -, -, rfl⟩ := execRoute_grid h
  exact .route hp (grid_length ..)

/-- The inversion of `step` in a launch. -/
theorem step_launchStep {s t : State} (hr : stopped s = false) (h : step s = .next t) : LaunchStep s t := by
  obtain ⟨c, i, rest, -, hd, he⟩ | ⟨-, e, -, -, rfl⟩ | ⟨-, hm⟩ | ⟨-, ho⟩ | ⟨hs, -⟩ := step_cases h
  · obtain ⟨hc, hl, heff⟩ | ⟨e, rfl⟩ := exec_effect he
    · exact .element hc (length_pos_of_wellFormed (decode_beginsWith hd).wellFormed) hl heff
    · exact .raise e
  · exact .raise e
  · exact execMerge_launchStep hm
  · exact execRoute_launchStep ho
  · rw [hr] at hs
    cases hs

/-- The inversion of `step` where no launch runs: only START has a next state. -/
theorem step_of_stopped {s t : State} (hs : stopped s = true) (h : step s = .next t) :
    ∃ l rest, s.pending = l :: rest ∧ launchAdmitted l = true ∧ t = { s with pending := rest }.start l := by
  rw [step_stopped hs, execStart, if_pos hs] at h
  split at h
  · cases h
  · split at h <;> cases h
    exact ⟨_, _, ‹_›, ‹_›, rfl⟩

/-! ### What every effect keeps, and where it leads -/

theorem Effect.cur_eq {c : Ctx} {s t : State} (h : Effect c s t) : t.cur = s.cur := by
  cases h <;> simp

theorem Effect.err_eq {c : Ctx} {s t : State} (h : Effect c s t) : t.err = s.err := by
  cases h <;> simp

theorem Effect.launch_eq {c : Ctx} {s t : State} (h : Effect c s t) : t.launch = s.launch := by
  cases h <;> simp

theorem Effect.pending_eq {c : Ctx} {s t : State} (h : Effect c s t) : t.pending = s.pending := by
  cases h <;> simp

theorem Effect.canvas_eq {c : Ctx} {s t : State} (h : Effect c s t) : t.canvas = s.canvas := by
  cases h <;> simp

/-- Where the end of an emission leads. -/
theorem completePlane_phase_eq {s : State} (hp : s.phase = .planeP ∨ s.phase = .planeS) :
    s.completePlane.phase =
      if s.cnt = s.total then (if s.phase = .planeP then .modef else .merge) else s.phase := by
  rw [State.completePlane_phase]
  obtain hp | hp := hp <;> rw [hp] <;> rfl

theorem Effect.followsPhase {c : Ctx} {s t : State} (h : Effect c s t) : followsPhase s.phase t.phase = true := by
  cases h with
  | emit hp =>
    rw [completePlane_phase_eq (by simpa using hp)]
    obtain hp | hp := hp <;> simp [hp] <;> split <;> rfl
  | lend hp => obtain hp | hp := hp <;> simp [hp, Machine.followsPhase]
  | dim hp | ord hp | ptp hp | mode hp | pts hp => simp [hp, Machine.followsPhase]

/-- The table leads neither to `IDLE` nor to `FAULT`. -/
theorem followsPhase_target {p q : Phase} (h : Machine.followsPhase p q = true) : q ≠ .idle ∧ q ≠ .fault := by
  cases p <;> cases q <;> simp [Machine.followsPhase] at h ⊢

theorem Effect.phase_ne_idle {c : Ctx} {s t : State} (h : Effect c s t) : t.phase ≠ .idle :=
  (followsPhase_target h.followsPhase).1

theorem Effect.phase_ne_fault {c : Ctx} {s t : State} (h : Effect c s t) : t.phase ≠ .fault :=
  (followsPhase_target h.followsPhase).2

/-- Settles O7: `step` fetches what `decode` answers and runs it. -/
theorem stepRunsTheDecodedElement : Obligations.StepRunsTheDecodedElement :=
  fun _ _ _ _ hc hd => step_runs hc hd

/-! ### The launch inputs, the order of the phases, the output -/

/-- Settles O26: of all the steps only START writes the launch inputs or the queue. -/
theorem launchInputsAreNeverWritten : Obligations.LaunchInputsAreNeverWritten := by
  intro s t hr h
  cases step_launchStep hr h with
  | element hc hn hl he => exact ⟨he.launch_eq, he.pending_eq⟩
  | merge | route | raise => exact ⟨rfl, rfl⟩

/-- Settles O35: an effect follows the table and leaves the cursor after the element's bits. -/
theorem phasesFollowTheirOrder : Obligations.PhasesFollowTheirOrder := by
  intro s t hr h hf
  cases step_launchStep hr h with
  | element hc hn hl he =>
    refine ⟨he.followsPhase, ?_, he.err_eq⟩
    rw [he.cur_eq, State.advance_cur]
    omega
  | merge hp | route hp => exact ⟨by simp [hp, followsPhase], le_rfl, rfl⟩
  | raise => exact absurd rfl hf

/-- Settles O36: an emission ends the plane when it completes it, and LEND leaves `CNT < TOTAL`. -/
theorem planeEndsWhenItIsComplete : Obligations.PlaneEndsWhenItIsComplete := by
  intro s t hp h hf
  have hr : stopped s = false := by
    obtain hp | hp := hp <;> simp [stopped, hp]
  cases step_launchStep hr h with
  | element hc hn hl he =>
    cases he with
    | emit =>
      rw [completePlane_phase_eq (by simpa using hp)]
      simp +contextual
    | lend _ hcnt => exact ⟨fun he => absurd he (BitVec.ne_of_lt hcnt), fun _ => rfl⟩
    | dim hq | ord hq | ptp hq | mode hq | pts hq => simp_all
  | merge hq | route hq => simp_all
  | raise => exact absurd rfl hf

/-- Settles O38: raising an error empties `CANVAS`, no effect writes it, and MERGE writes `PIX`. -/
theorem noPartialOutput : Obligations.NoPartialOutput := by
  refine ⟨fun s t h hf a => ?_, fun s t hr hne h hf => ?_⟩
  · cases hs : stopped s with
    | true =>
      obtain ⟨l, rest, -, -, rfl⟩ := step_of_stopped hs h
      rfl
    | false =>
      cases step_launchStep hs h with
      | element hc hn hl he => exact absurd hf he.phase_ne_fault
      | merge | route => cases hf
      | raise => rfl
  · cases step_launchStep hr h with
    | element hc hn hl he => exact he.canvas_eq
    | merge => rfl
    | route hp => exact absurd hp hne
    | raise => exact absurd rfl hf

end Sys2Proof.Machine

/-!
SUPPORT. The frames of the elements, and the header, flag and mode elements as whole next states
(41_packetstream.md section 2, 44_sprite_decoder.md section 2).
-/

namespace Sys2Proof.Machine

/-! ### Frames -/

/-- An emission stores to no plane bit but those of its pairs. -/
theorem emit_read_of_outside (s : State) (ps : List Pair) {a : Nat}
    (ha : a < 2 * s.cnt.toNat ∨ 2 * (s.cnt.toNat + ps.length) ≤ a) :
    (s.emit ps).planeP.read a = s.planeP.read a ∧ (s.emit ps).planeS.read a = s.planeS.read a := by
  have hout : a < 2 * s.cnt.toNat ∨ 2 * s.cnt.toNat + (ps.flatMap pairBits).length ≤ a := by
    rw [pairBits_length]
    omega
  rw [State.emit_planeP, State.emit_planeS]
  split
  · exact ⟨rfl, Memory.read_write_of_outside _ _ _ hout⟩
  · exact ⟨Memory.read_write_of_outside _ _ _ hout, rfl⟩

/-- Settles O24: such an element is an emission, which ends at twice the new `CNT`, or a LEND, which stores nothing. -/
theorem planeElementsStoreOnlyTheirPairs : Obligations.PlaneElementsStoreOnlyTheirPairs := by
  intro i s t hctx h hf
  obtain ⟨-, -, he⟩ | ⟨e, rfl⟩ := exec_effect h
  · generalize i.ctx = c at hctx he
    cases he with
    | @emit _ _ ps k pv rv n hp hk hne hfit hspace =>
      have htotal := s.total.isLt
      refine ⟨by simp, by simp, by simp, by simp, by simp, by simp, by simp, by simp, fun hc => ?_, by simp,
        fun hP a => ?_, fun hS a => ?_, fun a ha => ?_⟩
      · obtain rfl | ⟨-, hk⟩ := hk
        · cases hc
        · simpa using hk
      · simp [State.emit_planeS, hP]
      · simp [State.emit_planeP, hS]
      · simp only [State.completePlane_cnt, State.setIsRun_cnt, State.emit_cnt, State.setVarint_cnt, State.advance_cnt,
          State.advance_total, BitVec.toNat_add, BitVec.toNat_ofNat] at ha hfit
        have hout : a < 2 * s.cnt.toNat ∨ 2 * (s.cnt.toNat + ps.length) ≤ a := by omega
        simpa using emit_read_of_outside ((s.advance i.length).setVarint k pv rv n) ps hout
    | lend => simp
    | dim | ord | ptp | mode | pts => simp at hctx
  · exact absurd rfl hf

/-- Settles O25: such an element latches the registers of its rule and stores nothing. -/
theorem headerElementsStoreNothing : Obligations.HeaderElementsStoreNothing := by
  intro i s t hrun hlit h hf
  obtain ⟨-, -, he⟩ | ⟨e, rfl⟩ := exec_effect h
  · generalize i.ctx = c at hrun hlit he
    cases he with
    | emit hp hk => simp_all
    | lend => exact absurd rfl hlit
    | dim | ord | ptp | mode | pts => simp
  · exact absurd rfl hf

/-! ### MODE and PTS -/

/-- Settles O17: the effect begins the plane as `MODE_TYPE` says. -/
theorem ptsBeginsTheSecondaryPlane : Obligations.PtsBeginsTheSecondaryPlane := by
  refine ⟨fun t s hp hl => exec_runs (i := .pts t) (contextOf_ptypeS.mpr hp) hl, fun m t post => ?_⟩
  cases t <;> rfl

theorem latchMode_of_ne_zero {m : BitVec 2} (s : State) (hm : m ≠ 0) :
    latchMode m s = .next ((s.setMode m).setPhase .ptypeS) :=
  if_neg hm

/-- Settles O18: each legal mode is `latchMode` of its value, which is not 0. -/
theorem modeLatchesTheMode : Obligations.ModeLatchesTheMode := by
  intro i m s him hp hl
  have hc := contextOf_modef.mpr hp
  simp only [List.mem_cons, List.not_mem_nil, or_false, Prod.mk.injEq] at him
  obtain ⟨rfl, rfl⟩ | ⟨rfl, rfl⟩ | ⟨rfl, rfl⟩ := him
  · exact (exec_runs (i := .mode1) hc hl).trans (latchMode_of_ne_zero _ (by decide))
  · exact (exec_runs (i := .mode2) hc hl).trans (latchMode_of_ne_zero _ (by decide))
  · exact (exec_runs (i := .mode3) hc hl).trans (latchMode_of_ne_zero _ (by decide))

/-- Settles O19: the effect of the reserved mode is its error, once its two bits are there. -/
theorem reservedModeRaises : Obligations.ReservedModeRaises := by
  intro s hp
  have hc := contextOf_modef.mpr hp
  split
  · exact ⟨_, exec_runs (i := .modeRsv) hc ‹_›, rfl, rfl⟩
  · exact ⟨_, exec_raises (i := .modeRsv) hc (Nat.lt_of_not_le ‹_›), rfl, rfl⟩

end Sys2Proof.Machine

/-!
SUPPORT. MERGE, ROUTE and `Assemble` (42_combiner.md, 43_assembler.md), START and `raise` (44_sprite_decoder.md section
1, 60_exceptions.md section 3), and what the host reads (10_state.md section 7).
-/

namespace Sys2Proof.Machine

/-! ### MERGE, ROUTE and the domain of `Assemble` -/

/-- The pixel of the two plane bits, the order flag giving the primary plane bit 0 or bit 1. -/
theorem mergePixel_orderOf_toNat (ord x y : Bit) :
    (mergePixel (orderOf ord) x y).toNat = if ord then x.toNat + 2 * y.toNat else 2 * x.toNat + y.toNat := by
  cases ord
  · exact mergePixel_aIsHigh_toNat x y
  · exact mergePixel_aIsLow_toNat x y

/-- Settles O28: pixel `i` is merged from bit `i` of both planes, and there are `2 * TOTAL` pixels. -/
theorem mergeWritesThePixels : Obligations.MergeWritesThePixels := by
  intro s p q hp hT hP hQ
  have hspace : 2 * s.total.toNat ≤ Config.maxPlaneBits := by
    simp only [Config.maxPlaneBits]
    omega
  have hlen := mergedPixels_length hP hQ
  rw [step_merge hp, execMerge_of_planes hP hQ hp hspace]
  refine ⟨_, rfl, rfl, fun a ha => ?_, fun i x y hx hy => ⟨_, ?_, mergePixel_orderOf_toNat s.ord x y⟩⟩
  · exact Memory.read_write_of_outside _ _ _ (.inr (by omega))
  · have hi : (s.mergedPixels p q)[i]? = some (mergePixel (orderOf s.ord) x y) :=
      List.getElem?_zipWith_eq_some.mpr ⟨x, y, hx, hy, rfl⟩
    have hread := Memory.read_write_of_inside s.pix 0 _ i (List.getElem?_eq_some_iff.mp hi).1
    rw [Nat.zero_add, hi] at hread
    exact hread

/-- Settles O32: on its domain ROUTE writes the grid of `Assemble`, which covers the canvas. -/
theorem routeWritesTheCanvas : Obligations.RouteWritesTheCanvas := by
  intro s xs o hp hr hw hh ho hox hoy
  have hd : assembleDomain s.tw.toNat s.th.toNat o = true := (assembleDomain_iff ..).mpr (by omega)
  have hg := assemble_of_length_eq hd (Memory.readRange_some hr).1
  refine ⟨_, _, (step_route hp).trans (execRoute_runs hp hr ho.symm hd), rfl, hg, fun y x hy hx => ?_⟩
  have hlt : canvasAddr y x < (grid xs s.tw.toNat s.th.toNat o).length := by
    rw [grid_length]
    simp only [canvasAddr, Config.canvasSide]
    omega
  have hread := Memory.read_write_of_inside s.canvas 0 _ _ hlt
  rw [Nat.zero_add] at hread
  refine ⟨hread, ?_⟩
  rw [State.setPhase_canvas, State.writeCanvas_canvas, hread, grid_get _ _ _ _ hy hx]
  rfl

theorem assemble_of_outside {w h : Nat} {o : Offset} (xs : List Pixel) (hd : ¬ assembleDomain w h o = true) :
    assemble xs w h o = .error .outsideAssembleDomain :=
  if_neg hd

theorem assemble_of_length_ne {xs : List Pixel} {w h : Nat} {o : Offset} (hd : assembleDomain w h o = true)
    (hl : xs.length ≠ w * h * 64) : assemble xs w h o = .ok (.error .pixelCountMismatch) := by
  rw [assemble, if_pos hd, if_neg hl]

/-- On its domain `Assemble` has a value, a grid of the whole canvas or the one error. -/
theorem assemble_of_inside {w h : Nat} {o : Offset} (xs : List Pixel) (hd : assembleDomain w h o = true) :
    ∃ r, assemble xs w h o = .ok r ∧ ∀ g, r = .ok g → g.length = 56 * 56 := by
  by_cases hl : xs.length = w * h * 64
  · refine ⟨_, assemble_of_length_eq hd hl, fun g hg => ?_⟩
    rw [← Except.ok.inj hg, grid_length]
  · exact ⟨_, assemble_of_length_ne hd hl, fun g hg => by cases hg⟩

/-- Settles O31: on the domain, which bounds `W` and `H` by 7 too, the count is tested. -/
theorem assembleRejectsAWrongCount : Obligations.AssembleRejectsAWrongCount :=
  fun _ w h o hl _ _ _ _ => assemble_of_length_ne ((assembleDomain_iff w h o).mpr (by omega)) hl

/-- Settles O52: the domain is tested first, and inside it there is a value. -/
theorem assembleRefusesOutsideItsDomain : Obligations.AssembleRefusesOutsideItsDomain := by
  intro xs w h o
  rw [← assembleDomain_iff]
  refine ⟨fun ha hd => ?_, assemble_of_outside xs⟩
  obtain ⟨r, hr, -⟩ := assemble_of_inside xs hd
  rw [hr] at ha
  cases ha

/-! ### START and `raise` -/

theorem launchAdmitted_iff (l : Launch) : launchAdmitted l = true ↔ inDomain l := by
  rw [launchAdmitted, Bool.and_eq_true, decide_eq_true_eq, placeAdmitted_iff, inDomain]

theorem step_start {s : State} {l : Launch} {rest : List Launch} (hs : stopped s = true)
    (hp : s.pending = l :: rest) (hl : launchAdmitted l = true) :
    step s = .next ({ s with pending := rest }.start l) :=
  (step_stopped hs).trans (execStart_runs hs hp hl)

theorem step_start_refused {s : State} {l : Launch} {rest : List Launch} (hs : stopped s = true)
    (hp : s.pending = l :: rest) (hl : ¬ launchAdmitted l = true) : step s = .refused .launchNotAdmitted := by
  rw [step_stopped hs, execStart, if_pos hs, hp]
  exact if_neg hl

theorem step_of_no_start {s : State} (hs : stopped s = true) (hp : s.pending = []) :
    step s = .fault .noStepEnabled := by
  rw [step_stopped hs, execStart, if_pos hs, hp]

/-- Settles O1: the queue is empty at power-on, so no START is there to take. -/
theorem powerOnIsIdle : Obligations.PowerOnIsIdle :=
  ⟨rfl, rfl, fun _ => ⟨rfl, rfl, rfl, rfl⟩, step_of_no_start rfl rfl⟩

/-- Settles O2: an admitted launch is started, and START empties the buffers. -/
theorem startBeginsTheLaunch : Obligations.StartBeginsTheLaunch :=
  fun _ _ _ hs hp hl => ⟨_, step_start hs hp hl, rfl, rfl, rfl, rfl, rfl, fun _ => ⟨rfl, rfl, rfl, rfl⟩⟩

/-- Settles O3: `launchAdmitted` tests the domain, and START goes ahead on it. -/
theorem startRefusesInputsOutsideTheDomain : Obligations.StartRefusesInputsOutsideTheDomain := by
  intro s l rest hs hp
  change _ ↔ ¬ inDomain l
  rw [← launchAdmitted_iff]
  refine ⟨fun h hl => ?_, step_start_refused hs hp⟩
  rw [step_start hs hp hl] at h
  cases h

/-- Settles O33: `raise` is written so. -/
theorem raiseLeavesOnlyTheError : Obligations.RaiseLeavesOnlyTheError :=
  fun _ _ => ⟨rfl, rfl, rfl, rfl, fun _ => ⟨rfl, rfl, rfl, rfl⟩⟩

theorem stopped_iff (s : State) : stopped s = true ↔ s.phase = .idle ∨ s.phase = .done ∨ s.phase = .fault := by
  cases hp : s.phase <;> simp [stopped, hp]

/-- Only START takes a state whose `ERR` is set to one whose `ERR` is clear. -/
theorem stopped_of_err_cleared {s t : State} (he : s.err ≠ none) (h : step s = .next t) (ht : t.err = none) :
    stopped s = true := by
  by_contra hs
  rw [Bool.not_eq_true] at hs
  cases step_launchStep hs h with
  | element hc hn hl heff => exact he (heff.err_eq ▸ ht)
  | merge | route => exact he ht
  | raise => cases ht

/-- Settles O34: with no START there is no step, and a step of a stopped state is START. -/
theorem onlyStartLeavesAFault : Obligations.OnlyStartLeavesAFault := by
  refine ⟨fun s hp => step_of_no_start ((stopped_iff s).mpr (by tauto)), fun s t hp h => ?_,
    fun s t he h ht => ?_⟩
  · obtain ⟨l, rest, hq, -, rfl⟩ := step_of_stopped ((stopped_iff s).mpr (by tauto)) h
    exact ⟨rfl, rfl, l, hq⟩
  · have hs := stopped_of_err_cleared he h ht
    obtain ⟨l, rest, hq, -, rfl⟩ := step_of_stopped hs h
    exact ⟨hs, l, hq⟩

/-! ### What the host reads -/

/-- The fields of a status word (rule R35). -/
theorem statusWord_fields (e : BitVec 3) (p : BitVec 4) :
    (0#1 ++ e ++ p).extractLsb' 0 4 = p ∧ (0#1 ++ e ++ p).extractLsb' 4 3 = e ∧
      (0#1 ++ e ++ p).getLsbD 7 = false := by
  revert e p
  decide

theorem phaseCode_injective (p q : Phase) : phaseCode p = phaseCode q → p = q := by
  cases p <;> cases q <;> decide

theorem errCode_injective (e f : Option DecodeError) : errCode e = errCode f → e = f := by
  rcases e with _ | (_ | _ | _ | _ | _ | _) <;> rcases f with _ | (_ | _ | _ | _ | _ | _) <;> decide

/-- Settles O39: `STATUS` is made of the two codes, and the codes tell their names apart. -/
theorem statusShowsPhaseAndError : Obligations.StatusShowsPhaseAndError :=
  ⟨fun _ => statusWord_fields _ _, by decide, by decide, phaseCode_injective, errCode_injective⟩

/-- Settles O54: at `DONE` every read is there and finds its register or element. -/
theorem hostReadsByPhase : Obligations.HostReadsByPhase := by
  refine ⟨hostRead_status, fun s hp => ?_, fun s r hp hr => hostRead_of_not_done hp hr⟩
  simp only [hostRead_of_done hp]
  exact ⟨rfl, rfl, rfl, rfl, rfl, fun y x => rfl⟩

/-- A step of a launch that ends in `FAULT` raised an error. -/
theorem raised_of_fault {s t : State} (hr : stopped s = false) (h : step s = .next t) (hf : t.phase = .fault) :
    ∃ e, t = s.raise e := by
  cases step_launchStep hr h with
  | element hc hn hl he => exact absurd hf he.phase_ne_fault
  | merge | route => cases hf
  | raise e => exact ⟨e, rfl⟩

/-- Settles O56: two raised errors give states of one `STATUS`, all that is read at `FAULT`. -/
theorem faultsOfOneErrorLookAlike : Obligations.FaultsOfOneErrorLookAlike := by
  intro s₁ s₂ t₁ t₂ r hs₁ hs₂ h₁ h₂ hf₁ hf₂ he
  obtain ⟨e, rfl⟩ := raised_of_fault hs₁ h₁ hf₁
  obtain ⟨e', rfl⟩ := raised_of_fault hs₂ h₂ hf₂
  cases he
  exact ⟨hostRead_eq_of_status (s := s₁.raise e) (t := s₂.raise e) (by simp) (by simp) rfl r, rfl, rfl⟩

end Sys2Proof.Machine

/-!
SUPPORT. The invariant: it holds at power-on, every step keeps it, and under it no launch sticks (10_state.md sections
3 to 6, 44_sprite_decoder.md sections 1 and 3).
-/

namespace Sys2Proof.Machine

/-! ### The invariant after START and after an error -/

/-- Settles O40: every buffer is empty at power-on, and `IDLE` asks nothing of the registers. -/
theorem powerOnHasTheInvariant : Obligations.PowerOnHasTheInvariant := by
  refine ⟨?_, Memory.wf_nil, Memory.wf_nil, Memory.wf_nil, Memory.wf_nil⟩
  constructor <;> simp [State.reset, headerRead, modeRead, filledP, filledS, filledPix, filledCanvas]

theorem inv_raise (s : State) (e : DecodeError) : Inv (s.raise e) := by
  constructor <;> simp [headerRead, modeRead, filledP, filledS, filledPix, filledCanvas]

theorem inv_start {l : Launch} (s : State) (hl : launchAdmitted l = true) : Inv (s.start l) := by
  have hbase := ((launchAdmitted_iff l).mp hl).1
  constructor <;> simp [headerRead, modeRead, filledP, filledS, filledPix, filledCanvas, hl, hbase]

/-! ### What the header bounds -/

theorem tiles_bounds {h w : BitVec 4} (hd : dimsLegal h w = true) :
    1 ≤ w.toNat * h.toNat ∧ w.toNat * h.toNat ≤ 49 := by
  obtain ⟨hh, hh', hw, hw'⟩ := (dimsLegal_iff h w).mp hd
  exact ⟨Nat.mul_pos hw hh, Nat.mul_le_mul hw' hh'⟩

/-- Once the header is read a plane needs from 32 to 1568 pairs (rule R32). -/
theorem Inv.total_bounds {s : State} (hI : Inv s) (h : headerRead s.phase) :
    1 ≤ s.total.toNat ∧ s.total.toNat ≤ 1568 := by
  obtain ⟨hd, htotal⟩ := hI.header h
  have htiles := tiles_bounds hd
  simp only [Config.pairsPerTile] at htotal
  omega

/-! ### The invariant after an element -/

/-- The invariant bounds the cursor by `LEN`, so consuming bits that are there keeps it. -/
theorem Inv.advance {s : State} (hI : Inv s) {n : Nat} (hl : s.cur + n ≤ s.len) : Inv (s.advance n) :=
  { hI with
    cur := fun h₁ h₂ => ⟨Nat.le_add_right_of_le (hI.cur h₁ h₂).1, hl⟩ }

/-- The filled part of a plane grows by the bits of the pairs. -/
theorem keys_write_pairs {m : Memory Bit} {n : Nat} (h : m.map Prod.fst = List.range (2 * n)) (ps : List Pair) :
    (m.write (2 * n) (ps.flatMap pairBits)).map Prod.fst = List.range (2 * (n + ps.length)) := by
  rw [Memory.keys_write_at_end h, pairBits_length, Nat.mul_add]

theorem Inv.emit {s : State} {ps : List Pair} (hI : Inv s) (k pv rv n : Nat)
    (hp : s.phase = .planeP ∨ s.phase = .planeS) (hfit : s.cnt.toNat + ps.length ≤ s.total.toNat) :
    Inv (((s.setVarint k pv rv n).emit ps).setIsRun false).completePlane := by
  obtain ⟨herr, hlaunch, hcur, hheader, hmode, hplane, hP, hS, hX, hC⟩ := hI
  rw [emit_setIsRun_completePlane ps false (s.setVarint k pv rv n) hp hfit]
  have hcnt : (BitVec.ofNat 11 (s.cnt.toNat + ps.length)).toNat = s.cnt.toNat + ps.length := by
    have htotal := s.total.isLt
    rw [BitVec.toNat_ofNat]
    omega
  generalize hc : BitVec.ofNat 11 (s.cnt.toNat + ps.length) = c at hcnt
  have hlt : s.cnt.toNat + ps.length ≠ s.total.toNat → c < s.total := by
    rw [BitVec.lt_def]
    omega
  obtain hp | hp := hp
  · have hkeys := keys_write_pairs (by simpa [filledP, hp] using hP) ps
    by_cases hfull : s.cnt.toNat + ps.length = s.total.toNat
    · constructor <;> simp_all [State.len, headerRead, modeRead, filledP, filledS, filledPix, filledCanvas]
    · have hlt := hlt hfull
      constructor <;> simp_all [State.len, headerRead, modeRead, filledP, filledS, filledPix, filledCanvas]
  · have hkeys := keys_write_pairs (by simpa [filledS, hp] using hS) ps
    by_cases hfull : s.cnt.toNat + ps.length = s.total.toNat
    · constructor <;> simp_all [State.len, headerRead, modeRead, filledP, filledS, filledPix, filledCanvas]
    · have hlt := hlt hfull
      constructor <;> simp_all [State.len, headerRead, modeRead, filledP, filledS, filledPix, filledCanvas]

theorem Effect.inv {c : Ctx} {s t : State} (h : Effect c s t) (hI : Inv s) : Inv t := by
  obtain ⟨herr, hlaunch, hcur, hheader, hmode, hplane, hP, hS, hX, hC⟩ := id hI
  cases h with
  | emit hp hk hne hfit => exact hI.emit _ _ _ _ hp hfit
  | dim hp hd =>
    have htotal := totalPairs_toNat hd
    constructor <;> simp_all [headerRead, modeRead, filledP, filledS, filledPix, filledCanvas]
  | ptp hp | pts hp =>
    have htotal := (hI.total_bounds (by simp [hp, headerRead])).1
    have hcnt : 0 < s.total := BitVec.lt_def.mpr htotal
    constructor <;> simp_all [headerRead, modeRead, filledP, filledS, filledPix, filledCanvas]
  | ord hp | lend hp | mode hp =>
    constructor <;> simp_all [headerRead, modeRead, filledP, filledS, filledPix, filledCanvas]

/-! ### The invariant after a step -/

theorem LaunchStep.inv {s t : State} (h : LaunchStep s t) (hI : Inv s) : Inv t := by
  cases h with
  | element hc hn hl he => exact he.inv (hI.advance hl)
  | raise e => exact inv_raise s e
  | @merge _ xs hp hlen =>
    obtain ⟨herr, hlaunch, hcur, hheader, hmode, hplane, hP, hS, hX, hC⟩ := hI
    have hkeys := Memory.keys_write_at_end (n := 0) (by simpa [filledPix, hp] using hX) xs
    constructor <;> simp_all [headerRead, modeRead, filledP, filledS, filledPix, filledCanvas]
  | @route _ g hp hlen =>
    obtain ⟨herr, hlaunch, hcur, hheader, hmode, hplane, hP, hS, hX, hC⟩ := hI
    have hkeys := Memory.keys_write_at_end (n := 0) (by simpa [filledCanvas, hp] using hC) g
    constructor <;> simp_all [headerRead, modeRead, filledP, filledS, filledPix, filledCanvas, Config.canvasSide]

/-- Settles O41: a step of a launch is an effect, MERGE, ROUTE or an error, and a step of a stopped state is START. -/
theorem everyStepKeepsTheInvariant : Obligations.EveryStepKeepsTheInvariant := by
  intro s t hI h
  cases hs : stopped s with
  | true =>
    obtain ⟨l, rest, -, hl, rfl⟩ := step_of_stopped hs h
    exact inv_start _ hl
  | false => exact (step_launchStep hs h).inv hI

/-! ### The buffers' canonical form -/

theorem buffersWf_of_empty {s : State} (hP : s.planeP = []) (hS : s.planeS = []) (hX : s.pix = [])
    (hC : s.canvas = []) : buffersWf s := by
  rw [buffersWf, hP, hS, hX, hC]
  exact ⟨Memory.wf_nil, Memory.wf_nil, Memory.wf_nil, Memory.wf_nil⟩

theorem emit_wf {s : State} {ps : List Pair} (hP : s.planeP.wf) (hS : s.planeS.wf)
    (hspace : 2 * s.cnt.toNat + 2 * ps.length ≤ Config.maxPlaneBits) :
    (s.emit ps).planeP.wf ∧ (s.emit ps).planeS.wf := by
  rw [← pairBits_length] at hspace
  rw [State.emit_planeP, State.emit_planeS]
  split
  · exact ⟨hP, Memory.write_wf hS hspace⟩
  · exact ⟨Memory.write_wf hP hspace, hS⟩

theorem Effect.wf {c : Ctx} {s t : State} (h : Effect c s t) (hwf : buffersWf s) : buffersWf t := by
  cases h with
  | @emit _ _ ps k pv rv n hp hk hne hfit hspace =>
    obtain ⟨hP, hS, hX, hC⟩ := hwf
    obtain ⟨hP', hS'⟩ := emit_wf (s := s.setVarint k pv rv n) hP hS hspace
    simp only [buffersWf, State.completePlane_planeP, State.completePlane_planeS, State.completePlane_pix,
      State.completePlane_canvas]
    exact ⟨hP', hS', by simpa using hX, by simpa using hC⟩
  | dim | ord | ptp | lend | mode | pts => exact hwf

theorem LaunchStep.wf {s t : State} (h : LaunchStep s t) (hwf : buffersWf s) : buffersWf t := by
  cases h with
  | element hc hn hl he => exact he.wf (s := s.advance _) hwf
  | raise e => exact buffersWf_of_empty rfl rfl rfl rfl
  | merge hp hlen hspace =>
    obtain ⟨hP, hS, hX, hC⟩ := hwf
    exact ⟨hP, hS, Memory.write_wf hX (by rwa [Nat.zero_add]), hC⟩
  | route hp hlen =>
    obtain ⟨hP, hS, hX, hC⟩ := hwf
    exact ⟨hP, hS, hX, Memory.write_wf hC (by rw [Nat.zero_add, hlen])⟩

/-- Settles O42: every write stays inside the space, and an error or START empties the buffers. -/
theorem everyStepKeepsBuffersCanonical : Obligations.EveryStepKeepsBuffersCanonical := by
  intro s t hwf h
  cases hs : stopped s with
  | true =>
    obtain ⟨l, rest, -, -, rfl⟩ := step_of_stopped hs h
    exact buffersWf_of_empty rfl rfl rfl rfl
  | false => exact (step_launchStep hs h).wf hwf

/-- Under the invariant no plane fills more than its buffer. -/
theorem Inv.filled_le {s : State} (hI : Inv s) :
    filledP s ≤ 3136 ∧ filledS s ≤ 3136 ∧ filledPix s ≤ 3136 := by
  have htotal := hI.total_bounds
  have hcnt := hI.plane
  rw [BitVec.lt_def] at hcnt
  cases hp : s.phase <;> simp [filledP, filledS, filledPix, headerRead, hp] at htotal hcnt ⊢ <;> omega

/-- Settles O43: each buffer lists `0 .. n-1` with `n` at most 3136. -/
theorem invariantMakesBuffersCanonical : Obligations.InvariantMakesBuffersCanonical := by
  intro s hI
  obtain ⟨hP, hS, hX⟩ := hI.filled_le
  have hC : filledCanvas s ≤ 3136 := by
    unfold filledCanvas
    split <;> decide
  exact ⟨Memory.wf_of_keys hI.planeP hP, Memory.wf_of_keys hI.planeS hS, Memory.wf_of_keys hI.pix hX,
    Memory.wf_of_keys hI.canvas hC⟩

/-! ### Progress -/

/-- An element that was fetched has its bits before `LEN`. -/
theorem fetched_fits {s : State} {c : Ctx} {i : Instr} {rest : Bits} (hcur : s.cur ≤ s.len)
    (hd : decode c s.remaining = .ok (i, rest)) : s.cur + i.length ≤ s.len := by
  obtain ⟨hw, -, hbits⟩ := decode_beginsWith hd
  have hlen := remaining_length s
  rw [hbits, List.length_append, encode_length hw] at hlen
  omega

theorem latchDims_runs (h w : BitVec 4) (s : State) : ∃ t, latchDims h w s = .next t := by
  unfold latchDims
  split <;> exact ⟨_, rfl⟩

theorem latchMode_runs (m : BitVec 2) (s : State) : ∃ t, latchMode m s = .next t := by
  unfold latchMode
  split <;> exact ⟨_, rfl⟩

theorem Inv.plane_total_le {s : State} (hI : Inv s) (hp : s.phase = .planeP ∨ s.phase = .planeS) :
    s.total.toNat ≤ 1568 := by
  refine (hI.total_bounds ?_).2
  obtain hp | hp := hp <;> simp [hp, headerRead]

theorem Inv.effectOf_runs {s : State} (hI : Inv s) {i : Instr} (hw : i.wellFormed = true)
    (hc : contextOf s = some i.ctx) : ∃ t, effectOf i s = .next t := by
  cases i
  case dim h w => exact latchDims_runs h w s
  case ord | ptp | pts | lend => exact ⟨_, rfl⟩
  case lit1 | lit2 | lit3 =>
    obtain ⟨hp, hcnt, -⟩ := contextOf_literal.mp hc
    exact ⟨_, emitPairs_runs_of_fits _ hp hcnt (hI.plane_total_le hp)⟩
  case mode1 | mode2 | mode3 | modeRsv => exact latchMode_runs _ s
  all_goals
    obtain ⟨hp, hcnt, -⟩ := contextOf_run.mp hc
    obtain ⟨hk, -⟩ := runInstr_of_runFields rfl hw
    exact ⟨_, emitRun_runs _ hk hp hcnt (hI.plane_total_le hp) rfl⟩

theorem Inv.execMerge_runs {s : State} (hI : Inv s) (hp : s.phase = .merge) : ∃ t, execMerge s = .next t := by
  have htotal := (hI.total_bounds (by simp [hp, headerRead])).2
  obtain ⟨p, hP, -⟩ := Memory.readRange_of_keys hI.planeP (k := 2 * s.total.toNat) (by simp [filledP, hp])
  obtain ⟨q, hQ, -⟩ := Memory.readRange_of_keys hI.planeS (k := 2 * s.total.toNat) (by simp [filledS, hp])
  exact ⟨_, execMerge_of_planes hP hQ hp (by simp only [Config.maxPlaneBits]; omega)⟩

/-- The launch is admitted and the header legal, so the placement keeps the sprite on the canvas. -/
theorem assembleDomain_of_admitted {l : Launch} {h w : BitVec 4} (hl : launchAdmitted l = true)
    (hd : dimsLegal h w = true) :
    assembleDomain w.toNat h.toNat (placeAt l.place w.toNat h.toNat) = true := by
  obtain ⟨hh, hh', hw, hw'⟩ := (dimsLegal_iff h w).mp hd
  obtain ⟨hx, hy⟩ := ((launchAdmitted_iff l).mp hl).2 _ _ hw hw' hh hh'
  exact (assembleDomain_iff ..).mpr ⟨hw, hw', hh, hh', hx, hy⟩

/-- Where ROUTE stands, `PIX` holds the `W * H * 64` pixels of the sprite. -/
theorem Inv.filledPix_of_route {s : State} (hI : Inv s) (hp : s.phase = .route) :
    filledPix s = s.tw.toNat * s.th.toNat * Config.tilePixels := by
  have htotal := (hI.header (by simp [hp, headerRead])).2
  simp only [filledPix, hp, htotal, Config.pairsPerTile, Config.tilePixels]
  omega

theorem Inv.execRoute_runs {s : State} (hI : Inv s) (hp : s.phase = .route) : ∃ t, execRoute s = .next t := by
  have hd := (hI.header (by simp [hp, headerRead])).1
  have hl := hI.launch (by simp [hp]) (by simp [hp])
  obtain ⟨xs, hX, -⟩ := Memory.readRange_of_keys hI.pix (hI.filledPix_of_route hp).ge
  exact ⟨_, Machine.execRoute_runs hp hX rfl (assembleDomain_of_admitted hl hd)⟩

/-- In a launch a state with the invariant decodes an element, merges or routes (rule R167). -/
theorem Inv.enabled_cases {s : State} (hI : Inv s) (hr : stopped s = false) :
    (∃ c, contextOf s = some c) ∨ s.phase = .merge ∨ s.phase = .route := by
  have hcnt := hI.plane
  cases hp : s.phase <;> simp [stopped, hp] at hr <;> simp_all [contextOf]

/-- Settles O44: under the invariant the planes and pixels that MERGE and ROUTE read are there, the domain of
`Assemble` holds, and the pairs of an element lie inside the buffer. -/
theorem aLaunchNeverSticks : Obligations.ALaunchNeverSticks := by
  intro s hI hr
  obtain ⟨c, hc⟩ | hp | hp := hI.enabled_cases hr
  · cases hd : decode c s.remaining with
    | error e => exact ⟨_, step_raises hc hd⟩
    | ok r =>
      obtain ⟨i, rest⟩ := r
      have hfit := fetched_fits (hI.cur (by rintro h; simp [contextOf, h] at hc) (phase_ne_fault_of_contextOf hc)).2 hd
      rw [← (decode_beginsWith hd).ctx] at hc
      rw [step_runs hc ((decode_beginsWith hd).ctx ▸ hd), exec_runs hc hfit]
      exact (hI.advance hfit).effectOf_runs (decode_beginsWith hd).wellFormed hc
  · rw [step_merge hp]
    exact hI.execMerge_runs hp
  · rw [step_route hp]
    exact hI.execRoute_runs hp

end Sys2Proof.Machine

/-!
SUPPORT. Every launch ends: two bounds on the steps that are left, both of which every step of a launch lowers
(44_sprite_decoder.md section 3), and the result that the host reads at `DONE` (10_state.md sections 4 and 7).
-/

namespace Sys2Proof.Machine

/-! ### The bound by the pairs that the planes need -/

/-- The elements a plane can still take: two for each pair, one less where a RUN comes next, as only a LEND emits
no pair and a RUN follows it. -/
def planeStepsLeft (s : State) : Nat := 2 * (s.total.toNat - s.cnt.toNat) - s.isRun.toNat

/-- The steps a launch can still take, a plane having at most 1568 pairs. -/
def stepsLeft (s : State) : Nat :=
  match s.phase with
  | .hdr => 6279
  | .ordf => 6278
  | .ptypeP => 6277
  | .planeP => 3140 + planeStepsLeft s
  | .modef => 3140
  | .ptypeS => 3139
  | .planeS => 2 + planeStepsLeft s
  | .merge => 2
  | .route => 1
  | .idle | .done | .fault => 0

theorem stepsLeft_pos {s : State} (hr : stopped s = false) : 0 < stepsLeft s := by
  cases hp : s.phase <;> simp [stopped, hp] at hr <;> simp [stepsLeft, hp]

theorem planeStepsLeft_start_le {s : State} (hI : Inv s) (hread : headerRead s.phase) (b : Bit) (p : Phase) :
    planeStepsLeft (((s.setIsRun b).setCnt 0).setPhase p) ≤ 3136 := by
  have htotal := (hI.total_bounds hread).2
  simp [planeStepsLeft]
  omega

/-- An emission leaves the plane at least one element fewer, or ends it. -/
theorem stepsLeft_emit_lt {s : State} {ps : List Pair} (k pv rv n : Nat)
    (hp : s.phase = .planeP ∨ s.phase = .planeS) (hne : 1 ≤ ps.length)
    (hfit : s.cnt.toNat + ps.length ≤ s.total.toNat) :
    stepsLeft (((s.setVarint k pv rv n).emit ps).setIsRun false).completePlane < stepsLeft s := by
  have htotal := s.total.isLt
  have hrun := Bool.toNat_le s.isRun
  rw [emit_setIsRun_completePlane ps false (s.setVarint k pv rv n) hp hfit]
  obtain hp | hp := hp <;> by_cases hfull : s.cnt.toNat + ps.length = s.total.toNat <;>
    simp [stepsLeft, planeStepsLeft, hp, hfull] <;> omega

theorem Effect.stepsLeft_lt {c : Ctx} {s t : State} (h : Effect c s t) (hI : Inv s) : stepsLeft t < stepsLeft s := by
  cases h with
  | emit hp hk hne hfit => exact stepsLeft_emit_lt _ _ _ _ hp hne hfit
  | lend hp hcnt hr =>
    rw [BitVec.lt_def] at hcnt
    obtain hp | hp := hp <;> simp [stepsLeft, planeStepsLeft, hp, hr] <;> omega
  | ptp hp | pts hp =>
    have hle := planeStepsLeft_start_le hI (by simp [hp, headerRead])
    simp only [stepsLeft, State.setPhase_phase, hp]
    exact Nat.lt_of_le_of_lt (Nat.add_le_add_left (hle _ _) _) (by decide)
  | dim hp | ord hp | mode hp => simp [stepsLeft, hp]

theorem LaunchStep.stepsLeft_lt {s t : State} (h : LaunchStep s t) (hI : Inv s) (hr : stopped s = false) :
    stepsLeft t < stepsLeft s := by
  cases h with
  | element hc hn hl he => exact he.stepsLeft_lt (hI.advance hl)
  | merge hp | route hp => simp [stepsLeft, hp]
  | raise => exact stepsLeft_pos hr

/-! ### The bound by the bits that are left -/

/-- The steps a launch can still take, an element taking one bit or more. -/
def bitStepsLeft (s : State) : Nat :=
  match s.phase with
  | .merge => 2
  | .route => 1
  | .idle | .done | .fault => 0
  | .hdr | .ordf | .ptypeP | .planeP | .modef | .ptypeS | .planeS => s.len - s.cur + 2

theorem bitStepsLeft_of_contextOf {s : State} {c : Ctx} (hc : contextOf s = some c) :
    bitStepsLeft s = s.len - s.cur + 2 := by
  cases hp : s.phase <;> simp [contextOf, hp] at hc <;> simp [bitStepsLeft, hp]

theorem bitStepsLeft_le (s : State) : bitStepsLeft s ≤ s.len - s.cur + 2 := by
  cases hp : s.phase <;> simp [bitStepsLeft, hp]

theorem bitStepsLeft_pos {s : State} (hr : stopped s = false) : 0 < bitStepsLeft s := by
  cases hp : s.phase <;> simp [stopped, hp] at hr <;> simp [bitStepsLeft, hp]

theorem LaunchStep.bitStepsLeft_lt {s t : State} (h : LaunchStep s t) (hr : stopped s = false) :
    bitStepsLeft t < bitStepsLeft s := by
  cases h with
  | element hc hn hl he =>
    have hle := bitStepsLeft_le t
    have hcur := he.cur_eq
    have hlen : t.len = s.len := congrArg (fun l => l.input.length) he.launch_eq
    rw [State.advance_cur] at hcur
    rw [bitStepsLeft_of_contextOf hc]
    omega
  | merge hp | route hp => simp [bitStepsLeft, hp]
  | raise => exact bitStepsLeft_pos hr

/-! ### Runs to the end of a launch -/

theorem run_succ {n : Nat} {s t : State} (h : step s = .next t) : run (n + 1) s = run n t := by
  rw [run, h]

/-- A property that gives the invariant and that the steps of a launch keep holds at the end of the launch, which both
bounds limit. -/
theorem exists_run_to_stop {P : State → Prop} (hinv : ∀ s, P s → Inv s)
    (hstep : ∀ s t, P s → stopped s = false → step s = .next t → P t) {s : State} (hs : P s) :
    ∃ n t, n ≤ stepsLeft s ∧ n ≤ bitStepsLeft s ∧ run n s = .next t ∧ stopped t = true ∧ P t := by
  induction hm : stepsLeft s using Nat.strong_induction_on generalizing s with
  | _ m ih =>
    cases hr : stopped s with
    | true => exact ⟨0, s, Nat.zero_le _, Nat.zero_le _, rfl, hr, hs⟩
    | false =>
      obtain ⟨t, ht⟩ := aLaunchNeverSticks s (hinv s hs) hr
      have hl := step_launchStep hr ht
      have hsteps := hl.stepsLeft_lt (hinv s hs) hr
      have hbits := hl.bitStepsLeft_lt hr
      obtain ⟨n, u, hn, hnb, hu, hstop, hP⟩ := ih _ (hm ▸ hsteps) (hstep s t hs hr ht) rfl
      exact ⟨n + 1, u, by omega, by omega, (run_succ ht).trans hu, hstop, hP⟩

/-- A launch `l` that runs or ran, with `rest` still to START. -/
structure InLaunch (l : Launch) (rest : List Launch) (s : State) : Prop where
  inv : Inv s
  launch : s.launch = l
  pending : s.pending = rest
  started : s.phase ≠ .idle

theorem LaunchStep.phase_ne_idle {s t : State} (h : LaunchStep s t) : t.phase ≠ .idle := by
  cases h with
  | element hc hn hl he => exact he.phase_ne_idle
  | merge | route | raise => simp

theorem InLaunch.step {l : Launch} {rest : List Launch} {s t : State} (h : InLaunch l rest s)
    (hr : stopped s = false) (hs : step s = .next t) : InLaunch l rest t := by
  obtain ⟨hlaunch, hpending⟩ := launchInputsAreNeverWritten s t hr hs
  exact ⟨everyStepKeepsTheInvariant s t h.inv hs, hlaunch.trans h.launch, hpending.trans h.pending,
    (step_launchStep hr hs).phase_ne_idle⟩

theorem inLaunch_start {l : Launch} (s : State) (rest : List Launch) (hl : launchAdmitted l = true) :
    InLaunch l rest ({ s with pending := rest }.start l) :=
  ⟨inv_start _ hl, rfl, rfl, by simp⟩

theorem InLaunch.done_or_fault {l : Launch} {rest : List Launch} {s : State} (h : InLaunch l rest s)
    (hs : stopped s = true) : s.phase = .done ∨ s.phase = .fault := by
  have hstarted := h.started
  rw [stopped_iff] at hs
  tauto

/-- Settles O45: START leads to a state whose bounds are `4 * 1568 + 7` and `(LEN - BASE) + 2`. -/
theorem everyLaunchEnds : Obligations.EveryLaunchEnds := by
  intro s l rest hs hp hl
  obtain ⟨n, t, hn, hnb, ht, hstop, hin⟩ := exists_run_to_stop (P := InLaunch l rest) (fun _ h => h.inv)
    (fun _ _ h => h.step) (inLaunch_start s rest hl)
  have hsteps : n ≤ 6279 := hn
  have hbits : n ≤ l.input.length - l.base + 2 := hnb
  exact ⟨n + 1, t, by omega, by omega, (run_succ (step_start hs hp hl)).trans ht, hin.done_or_fault hstop,
    hin.launch, hin.pending⟩

/-! ### The result at `DONE` -/

theorem filledCanvas_of_done {s : State} (hp : s.phase = .done) : filledCanvas s = 56 * 56 := by
  rw [filledCanvas, hp]

theorem result_of_done {s : State} (hp : s.phase = .done) :
    result s = (s.canvas.readRange 0 (56 * 56)).map .ok := by
  rw [result, hp]

/-- Settles O55: at `DONE` the canvas is full, so it reads whole, and each element as the host reads it. -/
theorem hostReadsTheResultAtDone : Obligations.HostReadsTheResultAtDone := by
  intro s hI hp
  obtain ⟨g, hg, hlen⟩ := Memory.readRange_of_keys hI.canvas (filledCanvas_of_done hp).ge
  refine ⟨g, by rw [result_of_done hp, hg]; rfl, hlen, fun y x hy hx => ?_⟩
  have hlt : canvasAddr y x < 56 * 56 := by
    simp only [canvasAddr, Config.canvasSide]
    omega
  have hread := (Memory.readRange_some hg).2 _ hlt
  rw [Nat.zero_add, List.getElem?_eq_getElem (hlen ▸ hlt)] at hread
  refine ⟨_, List.getElem?_eq_getElem (hlen ▸ hlt), ?_⟩
  rw [hostRead_of_done hp, readValue, if_pos ⟨hy, hx⟩, hread]
  rfl

end Sys2Proof.Machine

/-!
SUPPORT. A launch that ends well depends on no bit at or after its final cursor (41_packetstream.md section 4,
44_sprite_decoder.md section 3).
-/

namespace Sys2Proof.Machine

/-! ### The steps of one launch -/

/-- `n` steps, each from a state in which a launch runs. -/
inductive LaunchRun : Nat → State → State → Prop
  | refl (s : State) : LaunchRun 0 s s
  | step {n : Nat} {s t u : State} (hr : stopped s = false) (hs : step s = .next t) (h : LaunchRun n t u) :
      LaunchRun (n + 1) s u

theorem LaunchRun.run_eq {n : Nat} {s t : State} (h : LaunchRun n s t) : run n s = .next t := by
  induction h with
  | refl => rfl
  | step hr hs h ih => exact (run_succ hs).trans ih

theorem run_succ_cases {n : Nat} {s u : State} (h : run (n + 1) s = .next u) :
    ∃ t, step s = .next t ∧ run n t = .next u := by
  rw [run] at h
  split at h
  · exact ⟨_, ‹_›, h⟩
  · cases h
  · cases h

/-- A step takes at most one START from the queue, and only where no launch runs. -/
theorem step_pending_length {s t : State} (h : step s = .next t) :
    t.pending.length = s.pending.length - (stopped s).toNat ∧ (stopped s = true → 1 ≤ s.pending.length) := by
  cases hs : stopped s with
  | true =>
    obtain ⟨l, rest, hp, -, rfl⟩ := step_of_stopped hs h
    simp [hp]
  | false => simp [(launchInputsAreNeverWritten s t hs h).2]

theorem run_pending_length_le {n : Nat} {s t : State} (h : run n s = .next t) :
    t.pending.length ≤ s.pending.length := by
  induction n generalizing s with
  | zero => cases h; exact le_rfl
  | succ n ih =>
    obtain ⟨u, hs, hu⟩ := run_succ_cases h
    exact (ih hu).trans ((step_pending_length hs).1 ▸ Nat.sub_le ..)

/-- A run that takes no START stays in its launch. -/
theorem launchRun_of_run {n : Nat} {s t : State} (h : run n s = .next t) (hp : t.pending = s.pending) :
    LaunchRun n s t := by
  induction n generalizing s with
  | zero => cases h; exact .refl _
  | succ n ih =>
    obtain ⟨u, hs, hu⟩ := run_succ_cases h
    cases hr : stopped s with
    | true =>
      obtain ⟨hlen, hpos⟩ := step_pending_length hs
      have hle := run_pending_length_le hu
      have hpos := hpos hr
      simp only [hr, hp, Bool.toNat_true] at hlen hle
      omega
    | false => exact .step hr hs (ih hu (hp.trans (launchInputsAreNeverWritten s u hr hs).2.symm))

theorem LaunchRun.phase_ne_fault {n : Nat} {s t : State} (h : LaunchRun n s t) (ht : t.phase = .done) :
    s.phase ≠ .fault := by
  cases h with
  | refl => simp [ht]
  | step hr =>
    intro hp
    simp [stopped, hp] at hr

theorem LaunchRun.cur_le {n : Nat} {s t : State} (h : LaunchRun n s t) (ht : t.phase = .done) : s.cur ≤ t.cur := by
  induction h with
  | refl => exact le_rfl
  | step hr hs h ih =>
    exact (phasesFollowTheirOrder _ _ hr hs (h.phase_ne_fault ht)).2.1.trans (ih ht)

/-! ### Steps under other bits -/

theorem emit_withInput (input : Bits) (ps : List Pair) (s : State) :
    (s.withInput input).emit ps = (s.emit ps).withInput input := by
  cases s with | mk _ phase => cases phase <;> rfl

theorem completePlane_withInput (input : Bits) (s : State) :
    (s.withInput input).completePlane = s.completePlane.withInput input :=
  (apply_ite (State.withInput input) (planeComplete s = true) (s.setPhase (phaseAfterPlane s.phase)) s).symm

theorem emitPairs_withInput (input : Bits) {ps : List Pair} {b : Bit} {s t : State} (h : emitPairs ps b s = .next t) :
    emitPairs ps b (s.withInput input) = .next (t.withInput input) := by
  obtain ⟨hspace, rfl⟩ := emitPairs_cases h
  rw [emitPairs_runs (s := s.withInput input) b hspace, emit_withInput, ← completePlane_withInput]
  rfl

theorem emitRun_withInput (input : Bits) {k v : Nat} {s t : State} (h : emitRun k v s = .next t) :
    emitRun k v (s.withInput input) = .next (t.withInput input) :=
  emitPairs_withInput (s := s.setVarint k (runPrefixValue k) v (runLength k v)) input h

theorem effectOf_withInput (input : Bits) {i : Instr} {s t : State} (h : effectOf i s = .next t) :
    effectOf i (s.withInput input) = .next (t.withInput input) := by
  cases i
  case dim =>
    obtain ⟨hd, rfl⟩ | ⟨hd, rfl⟩ := latchDims_cases h
    · exact latchDims_of_legal _ hd
    · exact latchDims_of_illegal _ (by simp [hd])
  case mode1 | mode2 | mode3 | modeRsv => cases h; rfl
  case ord | ptp | pts | lend => cases h; rfl
  case lit1 | lit2 | lit3 => exact emitPairs_withInput input h
  all_goals exact emitRun_withInput input h

/-- Bits that agree up to the end of an element show the same element at the cursor. -/
theorem remaining_withInput {s : State} {input e rest : Bits} (hb : s.remaining = e ++ rest)
    (hagree : input.take (s.cur + e.length) = s.launch.input.take (s.cur + e.length)) :
    ∃ rest', (s.withInput input).remaining = e ++ rest' := by
  have he : (input.drop s.cur).take e.length = e := by
    rw [List.take_drop, hagree, ← List.take_drop]
    exact (congrArg (List.take e.length) hb).trans (List.take_left' rfl)
  exact ⟨(input.drop s.cur).drop e.length, by
    nth_rw 1 [← he]
    exact (List.take_append_drop e.length (input.drop s.cur)).symm⟩

theorem step_withInput {input : Bits} {s t : State} (hr : stopped s = false) (h : step s = .next t)
    (hf : t.phase ≠ .fault) (hagree : input.take t.cur = s.launch.input.take t.cur)
    (hlen : t.cur ≤ input.length) : step (s.withInput input) = .next (t.withInput input) := by
  obtain ⟨c, i, rest, hc, hd, he⟩ | ⟨-, e, -, -, rfl⟩ | ⟨hp, -⟩ | ⟨hp, -⟩ | ⟨hs, -⟩ := step_cases h
  · obtain ⟨hw, rfl, hb⟩ := decode_beginsWith hd
    have hcur := exec_cur he hf
    obtain ⟨-, -, heff⟩ := exec_cases he hf
    rw [hcur, ← encode_length hw] at hagree
    obtain ⟨rest', hb'⟩ := remaining_withInput hb hagree
    have hd' : decode i.ctx (s.withInput input).remaining = .ok (i, rest') :=
      hb' ▸ decodeOfEncodeIsTheElement i rest' hw
    rw [step_runs (s := s.withInput input) hc hd', exec_runs (s := s.withInput input) hc (hcur ▸ hlen)]
    exact effectOf_withInput input heff
  · exact absurd rfl hf
  · exact (elementsAdvanceByTheirLength.2 s t input (.inl hp) h hf).2
  · exact (elementsAdvanceByTheirLength.2 s t input (.inr hp) h hf).2
  · rw [hr] at hs
    cases hs

/-- Two inputs that agree before a later cursor agree before an earlier one. -/
theorem take_eq_of_le {a b : Bits} {m n : Nat} (hmn : m ≤ n) (h : a.take n = b.take n) : a.take m = b.take m := by
  rw [← Nat.min_eq_left hmn, ← List.take_take, h, List.take_take]

theorem LaunchRun.withInput {n : Nat} {s t : State} {input : Bits} (h : LaunchRun n s t) (ht : t.phase = .done)
    (hagree : input.take t.cur = s.launch.input.take t.cur) (hlen : t.cur ≤ input.length) :
    run n (s.withInput input) = .next (t.withInput input) := by
  induction h with
  | refl => rfl
  | step hr hs h ih =>
    have hcur := h.cur_le ht
    rw [run_succ (step_withInput hr hs (h.phase_ne_fault ht) (take_eq_of_le hcur hagree) (hcur.trans hlen))]
    exact ih ht ((launchInputsAreNeverWritten _ _ hr hs).1 ▸ hagree) hlen

/-- Settles O47: no step of the launch reads a bit at or after the cursor it leaves, and the cursor only grows. -/
theorem bitsAfterTheSpriteDoNotMatter : Obligations.BitsAfterTheSpriteDoNotMatter :=
  fun _ _ _ _ _ h ht hp hagree hlen => (launchRun_of_run h hp).withInput ht hagree hlen

end Sys2Proof.Machine

/-!
SUPPORT. What a launch gives does not depend on anything before it: two states that agree on everything a launch has
written run alike (10_state.md section 8, 70_reset_and_hazards.md section 1).
-/

namespace Sys2Proof.Machine

/-! ### States that agree on what a launch has written -/

/-- Phases in which `ORD` holds the launch's flag: after ORD up to `DONE`. -/
def ordRead : Phase → Bool
  | .idle | .hdr | .ordf | .fault => false
  | .ptypeP | .planeP | .modef | .ptypeS | .planeS | .merge | .route | .done => true

/-- Two states of one launch that may differ in the queue and in every register that the launch has not written by
then (rule R46, log 1). -/
structure Twin (s t : State) : Prop where
  phase : t.phase = s.phase
  err : t.err = s.err
  launch : t.launch = s.launch
  planeP : t.planeP = s.planeP
  planeS : t.planeS = s.planeS
  pix : t.pix = s.pix
  canvas : t.canvas = s.canvas
  cur : s.phase ≠ .fault → t.cur = s.cur
  header : headerRead s.phase → t.th = s.th ∧ t.tw = s.tw ∧ t.total = s.total
  ord : ordRead s.phase → t.ord = s.ord
  packet : s.phase = .planeP ∨ s.phase = .planeS → t.isRun = s.isRun ∧ t.cnt = s.cnt
  mode : modeRead s.phase → t.mode = s.mode

theorem twin_start (l : Launch) (s t : State) : Twin (s.start l) (t.start l) := by
  constructor <;> simp [headerRead, ordRead, modeRead]

theorem Twin.raise {s t : State} (h : Twin s t) (e : DecodeError) : Twin (s.raise e) (t.raise e) := by
  have hlaunch := h.launch
  constructor <;> simp [headerRead, ordRead, modeRead, hlaunch]

theorem Twin.advance {s t : State} (h : Twin s t) (n : Nat) : Twin (s.advance n) (t.advance n) :=
  { h with cur := fun hp => congrArg (· + n) (h.cur hp) }

theorem Twin.contextOf_eq {s t : State} (h : Twin s t) : contextOf t = contextOf s := by
  obtain ⟨hphase, -, -, -, -, -, -, -, hheader, -, hpacket, -⟩ := h
  cases hp : s.phase <;> simp_all [contextOf, headerRead]

theorem Twin.stopped_eq {s t : State} (h : Twin s t) : stopped t = stopped s := by
  rw [stopped, stopped, h.phase]

/-! ### Steps of twins -/

/-- The varint registers show in no element to come. -/
theorem Twin.setVarint {s t : State} (h : Twin s t) (k pv rv n : Nat) :
    Twin (s.setVarint k pv rv n) (t.setVarint k pv rv n) :=
  { h with }

theorem Twin.emit {s t : State} (h : Twin s t) (ps : List Pair) (b : Bit)
    (hp : s.phase = .planeP ∨ s.phase = .planeS) :
    Twin ((s.emit ps).setIsRun b).completePlane ((t.emit ps).setIsRun b).completePlane := by
  have hread : headerRead s.phase = true ∧ ordRead s.phase = true ∧ s.phase ≠ .fault := by
    obtain hp | hp := hp <;> simp [hp, headerRead, ordRead]
  obtain ⟨hphase, herr, hlaunch, hP, hS, hX, hC, hcur, hheader, hord, hpacket, hmode⟩ := h
  obtain ⟨hth, htw, htotal⟩ := hheader hread.1
  obtain ⟨hrun, hcnt⟩ := hpacket hp
  by_cases hfull : s.cnt + BitVec.ofNat 11 ps.length = s.total <;> obtain hp | hp := hp <;> constructor <;>
    simp_all [State.emit_planeP, State.emit_planeS, State.completePlane_phase, phaseAfterPlane, modeRead]

theorem Twin.emitPairs {s t s' : State} {ps : List Pair} {b : Bit} (h : Twin s t)
    (hp : s.phase = .planeP ∨ s.phase = .planeS) (hs : emitPairs ps b s = .next s') :
    ∃ t', emitPairs ps b t = .next t' ∧ Twin s' t' := by
  obtain ⟨hspace, rfl⟩ := emitPairs_cases hs
  rw [← (h.packet hp).2] at hspace
  exact ⟨_, emitPairs_runs b hspace, h.emit ps b hp⟩

theorem Twin.emitRun {s t s' : State} {k v : Nat} (h : Twin s t) (hc : contextOf s = some .run)
    (hs : emitRun k v s = .next s') : ∃ t', emitRun k v t = .next t' ∧ Twin s' t' := by
  obtain ⟨hp, -⟩ := contextOf_run.mp hc
  obtain ⟨t', ht, htwin⟩ := (h.setVarint k (runPrefixValue k) v (runLength k v)).emitPairs hp hs
  have htotal : t.total = s.total := (h.header (by obtain hp | hp := hp <;> simp [hp, headerRead])).2.2
  refine ⟨t', ?_, htwin⟩
  unfold Machine.emitRun
  simp only [State.setVarint_n, State.setVarint_total, State.setVarint_cnt, htotal, (h.packet hp).2] at ht ⊢
  exact ht

theorem Twin.emitLit {s t s' : State} {p : Pair} (h : Twin s t) (hc : contextOf s = some .literal)
    (hs : Machine.emitPairs [p] s.isRun s = .next s') :
    ∃ t', Machine.emitPairs [p] t.isRun t = .next t' ∧ Twin s' t' := by
  obtain ⟨hp, -⟩ := contextOf_literal.mp hc
  rw [(h.packet hp).1]
  exact h.emitPairs hp hs

theorem Twin.latchDims {s t s' : State} {x w : BitVec 4} (h : Twin s t) (hp : s.phase = .hdr)
    (hs : latchDims x w s = .next s') : ∃ t', latchDims x w t = .next t' ∧ Twin s' t' := by
  obtain ⟨hd, rfl⟩ | ⟨hd, rfl⟩ := latchDims_cases hs
  · refine ⟨_, latchDims_of_legal t hd, ?_⟩
    obtain ⟨hphase, herr, hlaunch, hP, hS, hX, hC, hcur, hheader, hord, hpacket, hmode⟩ := h
    constructor <;> simp_all [headerRead, ordRead, modeRead]
  · exact ⟨_, latchDims_of_illegal t (by simp [hd]), h.raise _⟩

theorem Twin.latchMode {s t s' : State} {m : BitVec 2} (h : Twin s t) (hp : s.phase = .modef)
    (hs : latchMode m s = .next s') : ∃ t', latchMode m t = .next t' ∧ Twin s' t' := by
  obtain ⟨hm, rfl⟩ | ⟨rfl, rfl⟩ := latchMode_cases hs
  · refine ⟨_, latchMode_of_ne_zero t hm, ?_⟩
    obtain ⟨hphase, herr, hlaunch, hP, hS, hX, hC, hcur, hheader, hord, hpacket, hmode⟩ := h
    constructor <;> simp_all [headerRead, ordRead, modeRead]
  · exact ⟨_, rfl, h.raise _⟩

theorem Twin.beginPlane {s t : State} (h : Twin s t) (b : Bit) {p : Phase}
    (hp : s.phase = .ptypeP ∧ p = .planeP ∨ s.phase = .ptypeS ∧ p = .planeS) :
    Twin (((s.setIsRun b).setCnt 0).setPhase p) (((t.setIsRun b).setCnt 0).setPhase p) := by
  obtain ⟨hphase, herr, hlaunch, hP, hS, hX, hC, hcur, hheader, hord, hpacket, hmode⟩ := h
  obtain ⟨hp, rfl⟩ | ⟨hp, rfl⟩ := hp <;> constructor <;> simp_all [headerRead, ordRead, modeRead]

theorem Twin.effectOf {i : Instr} {s t s' : State} (h : Twin s t) (hc : contextOf s = some i.ctx)
    (hs : effectOf i s = .next s') : ∃ t', effectOf i t = .next t' ∧ Twin s' t' := by
  cases i
  case dim => exact h.latchDims (contextOf_hdr.mp hc) hs
  case ord f =>
    cases hs
    have hp := contextOf_ordf.mp hc
    refine ⟨_, rfl, ?_⟩
    obtain ⟨hphase, herr, hlaunch, hP, hS, hX, hC, hcur, hheader, hord, hpacket, hmode⟩ := h
    constructor <;> simp_all [headerRead, ordRead, modeRead]
  case ptp t' =>
    cases hs
    exact ⟨_, rfl, h.beginPlane _ (.inl ⟨contextOf_ptypeP.mp hc, rfl⟩)⟩
  case pts t' =>
    cases hs
    have hp := contextOf_ptypeS.mp hc
    have htwin := h.beginPlane (modeType s.launch.modeCfg s.mode t') (.inr ⟨hp, rfl⟩)
    rw [← h.launch, ← h.mode (by simp [hp, modeRead])] at htwin ⊢
    exact ⟨_, rfl, htwin⟩
  case lit1 | lit2 | lit3 => exact h.emitLit hc hs
  case lend =>
    cases hs
    refine ⟨_, rfl, { h with packet := fun hp => ⟨rfl, (h.packet hp).2⟩ }⟩
  case mode1 | mode2 | mode3 | modeRsv => exact h.latchMode (contextOf_modef.mp hc) hs
  all_goals exact h.emitRun hc hs

theorem Twin.exec {i : Instr} {s t s' : State} (h : Twin s t) (hs : exec i s = .next s') :
    ∃ t', exec i t = .next t' ∧ Twin s' t' := by
  rw [exec_eq_element] at hs
  obtain ⟨hc, hcase⟩ := element_cases hs
  have hcur := h.cur (phase_ne_fault_of_contextOf hc)
  have hlen : t.len = s.len := congrArg (fun l => l.input.length) h.launch
  have hct := h.contextOf_eq.trans hc
  rw [← hcur, ← hlen] at hcase
  obtain ⟨hl, he⟩ | ⟨hl, rfl⟩ := hcase
  · obtain ⟨t', ht, htwin⟩ := (h.advance i.length).effectOf hc he
    exact ⟨t', (exec_runs hct hl).trans ht, htwin⟩
  · exact ⟨_, exec_raises hct hl, h.raise _⟩

theorem Twin.execMerge {s t s' : State} (h : Twin s t) (hs : execMerge s = .next s') :
    ∃ t', execMerge t = .next t' ∧ Twin s' t' := by
  obtain ⟨hp, p, q, hP', hQ', hspace, rfl⟩ := execMerge_pixels hs
  obtain ⟨hphase, herr, hlaunch, hP, hS, hX, hC, hcur, hheader, hord, hpacket, hmode⟩ := h
  obtain ⟨hth, htw, htotal⟩ := hheader (by simp [hp, headerRead])
  rw [← hP, ← htotal] at hP'
  rw [← hS, ← htotal] at hQ'
  have hpixels : t.mergedPixels p q = s.mergedPixels p q := by
    rw [State.mergedPixels, State.mergedPixels, hlaunch, hord (by simp [hp, ordRead]), hmode (by simp [hp, modeRead])]
  refine ⟨_, execMerge_of_planes hP' hQ' (hphase.trans hp) (htotal ▸ hspace), ?_⟩
  constructor <;> simp_all [headerRead, ordRead, modeRead]

theorem Twin.execRoute {s t s' : State} (h : Twin s t) (hs : execRoute s = .next s') :
    ∃ t', execRoute t = .next t' ∧ Twin s' t' := by
  obtain ⟨hp, xs, hr, hd, rfl⟩ := execRoute_grid hs
  obtain ⟨hphase, herr, hlaunch, hP, hS, hX, hC, hcur, hheader, hord, hpacket, hmode⟩ := h
  obtain ⟨hth, htw, htotal⟩ := hheader (by simp [hp, headerRead])
  rw [← hX, ← htw, ← hth] at hr
  rw [← hlaunch, ← htw, ← hth] at hd ⊢
  refine ⟨_, execRoute_runs (hphase.trans hp) hr rfl hd, ?_⟩
  constructor <;> simp_all [headerRead, ordRead, modeRead]

/-- Twins of a launch step to twins. -/
theorem Twin.step {s t s' : State} (h : Twin s t) (hr : stopped s = false) (hs : step s = .next s') :
    ∃ t', step t = .next t' ∧ Twin s' t' := by
  have hcur : s.phase ≠ .fault := by
    intro hp
    simp [stopped, hp] at hr
  have hrem : t.remaining = s.remaining := by
    rw [State.remaining, State.remaining, h.launch, h.cur hcur]
  obtain ⟨c, i, rest, hc, hd, he⟩ | ⟨c, e, hc, hd, rfl⟩ | ⟨hp, hm⟩ | ⟨hp, ho⟩ | ⟨hst, -⟩ :=
    step_cases hs
  · rw [step_runs (h.contextOf_eq.trans hc) (hrem ▸ hd)]
    exact h.exec he
  · exact ⟨_, step_raises (h.contextOf_eq.trans hc) (hrem ▸ hd), h.raise e⟩
  · rw [step_merge (h.phase.trans hp)]
    exact h.execMerge hm
  · rw [step_route (h.phase.trans hp)]
    exact h.execRoute ho
  · rw [hr] at hst
    cases hst

theorem LaunchRun.twin {n : Nat} {s s' t : State} (h : LaunchRun n s s') (htwin : Twin s t) :
    ∃ t', LaunchRun n t t' ∧ Twin s' t' := by
  induction h generalizing t with
  | refl => exact ⟨t, .refl t, htwin⟩
  | step hr hs h ih =>
    obtain ⟨u, hu, hutwin⟩ := htwin.step hr hs
    obtain ⟨t', ht', ht'twin⟩ := ih hutwin
    exact ⟨t', .step (htwin.stopped_eq.trans hr) hu ht', ht'twin⟩

/-! ### What the host reads of twins -/

theorem Twin.result_eq {s t : State} (h : Twin s t) : result t = result s := by
  rw [result, result, h.phase, h.err, h.canvas]

theorem Twin.status_eq {s t : State} (h : Twin s t) : status t = status s := by
  rw [status, status, h.phase, h.err]

theorem Twin.registers_eq {s t : State} (h : Twin s t) (hp : s.phase = .done) :
    t.cur = s.cur ∧ t.th = s.th ∧ t.tw = s.tw ∧ t.ord = s.ord ∧ t.mode = s.mode := by
  obtain ⟨hth, htw, -⟩ := h.header (by simp [hp, headerRead])
  exact ⟨h.cur (by simp [hp]), hth, htw, h.ord (by simp [hp, ordRead]), h.mode (by simp [hp, modeRead])⟩

theorem Twin.hostRead_eq {s t : State} (h : Twin s t) (r : HostRead) : hostRead r t = hostRead r s := by
  by_cases hp : s.phase = .done
  · obtain ⟨hcur, hth, htw, hord, hmode⟩ := h.registers_eq hp
    rw [hostRead_of_done hp, hostRead_of_done (h.phase.trans hp)]
    cases r <;> simp only [readValue, h.status_eq, h.canvas, hcur, hth, htw, hord, hmode]
  · exact hostRead_eq_of_status (h.phase ▸ hp) hp h.status_eq r

/-! ### Launches -/

/-- A run that takes exactly one START begins with it. -/
theorem run_start_cases {n : Nat} {s t : State} {l : Launch} {rest : List Launch} (hs : stopped s = true)
    (hp : s.pending = l :: rest) (h : run n s = .next t) (ht : t.pending = rest) :
    ∃ m, n = m + 1 ∧ launchAdmitted l = true ∧ LaunchRun m ({ s with pending := rest }.start l) t := by
  cases n with
  | zero =>
    cases h
    rw [hp] at ht
    exact absurd ht (List.cons_ne_self l rest)
  | succ m =>
    obtain ⟨u, hu, hrun⟩ := run_succ_cases h
    obtain ⟨l', rest', hq, hl, rfl⟩ := step_of_stopped hs hu
    rw [hp] at hq
    cases hq
    exact ⟨m, rfl, hl, launchRun_of_run hrun ht⟩

theorem LaunchRun.pending_eq {n : Nat} {s t : State} (h : LaunchRun n s t) : t.pending = s.pending := by
  induction h with
  | refl => rfl
  | step hr hs h ih => exact ih.trans (launchInputsAreNeverWritten _ _ hr hs).2

/-- Settles O48: START leaves twins, twins run alike, and the host reads the same of twins. -/
theorem launchesForgetThePast : Obligations.LaunchesForgetThePast := by
  intro n l r₁ r₂ s₁ s₂ t₁ hs₁ hs₂ hp₁ hp₂ h ht _
  obtain ⟨m, rfl, hl, hrun⟩ := run_start_cases hs₁ hp₁ h ht
  obtain ⟨t₂, hrun₂, htwin⟩ := hrun.twin (twin_start l _ { s₂ with pending := r₂ })
  exact ⟨t₂, (run_succ (step_start hs₂ hp₂ hl)).trans hrun₂.run_eq, hrun₂.pending_eq, htwin.result_eq,
    htwin.status_eq, htwin.registers_eq, htwin.hostRead_eq⟩

end Sys2Proof.Machine

/-!
SUPPORT. The function `DecodePlane` by its elements: an equation for each, and an induction over a whole plane
(41_packetstream.md sections 1 to 4).
-/

namespace Sys2Proof.Machine

/-! ### One element of a plane -/

theorem varintDecode_rest_length {bits rest : Bits} {r : Varint} (h : varintDecode bits = .ok (r, rest)) :
    rest.length < bits.length := by
  obtain ⟨hk, -, rfl, -⟩ := varintDecode_ok h
  have hlen := Laws.EncodingLength.run hk r.rv
  simp [hlen]
  omega

theorem readField_rest_length {n v : Nat} {bits rest : Bits} (h : readField n bits = .ok (v, rest)) :
    bits.length = n + rest.length := by
  obtain ⟨s, rfl, rfl, -⟩ := readField_ok h
  exact List.length_append

theorem decodePlane_zero (r : Bool) (bits : Bits) : decodePlane 0 r bits = .ok ([], bits) := by
  simp [decodePlane, decodePlaneLoop]

/-- The loop with any fuel above the bits is the function. -/
theorem decodePlaneLoop_eq {f : Nat} {bits : Bits} (need : Nat) (r : Bool) (hf : bits.length < f) :
    decodePlaneLoop f need r bits = decodePlane need r bits :=
  decodePlaneLoop_fuel need r hf (Nat.lt_succ_self _)

section
variable {need : Nat} (hneed : 0 < need) {bits rest : Bits}
include hneed

/-- A RUN at the head of a plane. -/
theorem decodePlane_run {v : Varint} (h : varintDecode bits = .ok (v, rest)) :
    decodePlane need true bits = prependPairs (List.replicate (runPairs v.n need 0) 0)
      (decodePlane (need - runPairs v.n need 0) false rest) := by
  obtain ⟨m, rfl⟩ := Nat.exists_eq_add_one.mpr hneed
  rw [decodePlane, decodePlaneLoop, h]
  simp only []
  rw [decodePlaneLoop_eq _ _ (varintDecode_rest_length h)]

theorem decodePlane_run_error {e : DecodeError} (h : varintDecode bits = .error e) :
    decodePlane need true bits = .error e := by
  obtain ⟨m, rfl⟩ := Nat.exists_eq_add_one.mpr hneed
  rw [decodePlane, decodePlaneLoop, h]

/-- A LEND at the head of a plane. -/
theorem decodePlane_lend (h : readField 2 bits = .ok (0, rest)) :
    decodePlane need false bits = decodePlane need true rest := by
  obtain ⟨m, rfl⟩ := Nat.exists_eq_add_one.mpr hneed
  have hlen := readField_rest_length h
  rw [decodePlane, decodePlaneLoop, h]
  simp only []
  rw [decodePlaneLoop_eq _ _ (by omega)]

/-- A LIT at the head of a plane. -/
theorem decodePlane_lit {p : Nat} (h : readField 2 bits = .ok (p, rest)) (hp : p ≠ 0) :
    decodePlane need false bits = prependPairs [BitVec.ofNat 2 p] (decodePlane (need - 1) false rest) := by
  obtain ⟨m, rfl⟩ := Nat.exists_eq_add_one.mpr hneed
  obtain ⟨q, rfl⟩ := Nat.exists_eq_succ_of_ne_zero hp
  have hlen := readField_rest_length h
  rw [decodePlane, decodePlaneLoop, h]
  simp only []
  rw [decodePlaneLoop_eq _ _ (by omega), Nat.add_sub_cancel]

theorem decodePlane_pair_error {e : DecodeError} (h : readField 2 bits = .error e) :
    decodePlane need false bits = .error e := by
  obtain ⟨m, rfl⟩ := Nat.exists_eq_add_one.mpr hneed
  rw [decodePlane, decodePlaneLoop, h]

end

/-! ### A whole plane -/

/-- Induction over the elements of a plane: what holds of a complete plane and of bits that hold no element, and what
each element adds to the plane after it. -/
theorem decodePlane_induction {motive : Nat → Bool → Bits → Except DecodeError (List Pair × Bits) → Prop}
    (complete : ∀ r bits, motive 0 r bits (.ok ([], bits)))
    (run_error : ∀ need bits e, 0 < need → varintDecode bits = .error e → motive need true bits (.error e))
    (run : ∀ need bits v rest, 0 < need → varintDecode bits = .ok (v, rest) →
      motive (need - runPairs v.n need 0) false rest (decodePlane (need - runPairs v.n need 0) false rest) →
      motive need true bits (prependPairs (List.replicate (runPairs v.n need 0) 0)
        (decodePlane (need - runPairs v.n need 0) false rest)))
    (pair_error : ∀ need bits e, 0 < need → readField 2 bits = .error e → motive need false bits (.error e))
    (lend : ∀ need bits rest, 0 < need → readField 2 bits = .ok (0, rest) →
      motive need true rest (decodePlane need true rest) → motive need false bits (decodePlane need true rest))
    (lit : ∀ need bits p rest, 0 < need → readField 2 bits = .ok (p, rest) → p ≠ 0 →
      motive (need - 1) false rest (decodePlane (need - 1) false rest) →
      motive need false bits (prependPairs [BitVec.ofNat 2 p] (decodePlane (need - 1) false rest)))
    (need : Nat) (r : Bool) (bits : Bits) : motive need r bits (decodePlane need r bits) := by
  induction hl : bits.length using Nat.strong_induction_on generalizing need r bits with
  | _ l ih =>
    subst hl
    rcases Nat.eq_zero_or_pos need with rfl | hneed
    · rw [decodePlane_zero]
      exact complete r bits
    · cases r with
      | true =>
        cases h : varintDecode bits with
        | error e =>
          rw [decodePlane_run_error hneed h]
          exact run_error need bits e hneed h
        | ok q =>
          rw [decodePlane_run hneed h]
          exact run need bits _ _ hneed h (ih _ (varintDecode_rest_length h) _ _ _ rfl)
      | false =>
        cases h : readField 2 bits with
        | error e =>
          rw [decodePlane_pair_error hneed h]
          exact pair_error need bits e hneed h
        | ok q =>
          obtain ⟨p, rest⟩ := q
          have hshort : rest.length < bits.length := by
            rw [readField_rest_length h]
            omega
          rcases Nat.eq_zero_or_pos p with rfl | hp
          · rw [decodePlane_lend hneed h]
            exact lend need bits rest hneed h (ih _ hshort _ _ _ rfl)
          · rw [decodePlane_lit hneed h hp.ne']
            exact lit need bits p rest hneed h hp.ne' (ih _ hshort _ _ _ rfl)

theorem varintDecode_error {bits : Bits} {e : DecodeError} (h : varintDecode bits = .error e) :
    e = .malformedVarint := by
  unfold varintDecode at h
  split at h
  · cases h; rfl
  · split at h <;> cases h
    rfl

/-- `need` pairs, or one of the two errors of a plane. -/
def GivesPairs (need : Nat) : Except DecodeError (List Pair × Bits) → Prop
  | .ok (ps, _) => ps.length = need
  | .error e => e = .malformedVarint ∨ e = .cursorExhausted

theorem GivesPairs.prepend {need : Nat} {ps : List Pair} {r : Except DecodeError (List Pair × Bits)}
    (h : GivesPairs (need - ps.length) r) (hle : ps.length ≤ need) : GivesPairs need (prependPairs ps r) := by
  cases r with
  | error e => exact h
  | ok q =>
    have hlen : q.1.length = need - ps.length := h
    change (ps ++ q.1).length = need
    rw [List.length_append]
    omega

theorem decodePlane_givesPairs (need : Nat) (r : Bool) (bits : Bits) : GivesPairs need (decodePlane need r bits) := by
  induction need, r, bits using decodePlane_induction with
  | complete => rfl
  | run_error need bits e hneed h => exact .inl (varintDecode_error h)
  | run need bits v rest hneed h ih =>
    exact GivesPairs.prepend (by simpa using ih) (by simp [runPairs])
  | pair_error need bits e hneed h => exact .inr (readField_error h).2
  | lend need bits rest hneed h ih => exact ih
  | lit need bits p rest hneed h hp ih => exact GivesPairs.prepend ih hneed

/-- Settles O49: every element adds the pairs by which the plane after it is shorter. -/
theorem decodePlaneGivesTotalPairs : Obligations.DecodePlaneGivesTotalPairs := by
  refine ⟨fun total r bits => ?_, decodePlane_zero⟩
  have h := decodePlane_givesPairs total r bits
  split <;> simp_all [GivesPairs]

/-- Joining pairs succeeds where the rest of the plane does. -/
theorem prependPairs_ok {ps qs : List Pair} {rest : Bits} {r : Except DecodeError (List Pair × Bits)}
    (h : prependPairs ps r = .ok (qs, rest)) : ∃ qs', r = .ok (qs', rest) ∧ qs = ps ++ qs' := by
  cases r with
  | error e => cases h
  | ok q =>
    cases h
    exact ⟨q.1, rfl, rfl⟩

/-- If `result` is a success, then the bits it used give it before any tail. -/
def UsesPrefix (need : Nat) (r : Bool) (bits : Bits) (result : Except DecodeError (List Pair × Bits)) : Prop :=
  ∀ ps rest, result = .ok (ps, rest) →
    ∃ used, bits = used ++ rest ∧ ∀ tail, decodePlane need r (used ++ tail) = .ok (ps, tail)

theorem decodePlane_usesPrefix (need : Nat) (r : Bool) (bits : Bits) :
    UsesPrefix need r bits (decodePlane need r bits) := by
  induction need, r, bits using decodePlane_induction with
  | complete r bits =>
    rintro ps rest h
    cases h
    exact ⟨[], rfl, decodePlane_zero r⟩
  | run_error | pair_error =>
    rintro ps rest h
    cases h
  | run need bits v rest₁ hneed h ih =>
    rintro ps rest hps
    obtain ⟨qs, hqs, rfl⟩ := prependPairs_ok hps
    obtain ⟨used, rfl, htail⟩ := ih qs rest hqs
    obtain ⟨-, -, rfl, -⟩ := varintDecode_ok h
    refine ⟨encodeRun v.k v.rv ++ used, (List.append_assoc ..).symm, fun tail => ?_⟩
    rw [List.append_assoc, decodePlane_run hneed (varintDecode_encodeRun_of_ok h _), htail]
    rfl
  | lend need bits rest₁ hneed h ih =>
    rintro ps rest hps
    obtain ⟨used, rfl, htail⟩ := ih ps rest hps
    obtain ⟨e, rfl, he, hv⟩ := readField_ok h
    refine ⟨e ++ used, (List.append_assoc ..).symm, fun tail => ?_⟩
    rw [List.append_assoc, decodePlane_lend hneed (hv ▸ readField_append he _), htail]
  | lit need bits p rest₁ hneed h hp ih =>
    rintro ps rest hps
    obtain ⟨qs, hqs, rfl⟩ := prependPairs_ok hps
    obtain ⟨used, rfl, htail⟩ := ih qs rest hqs
    obtain ⟨e, rfl, he, rfl⟩ := readField_ok h
    refine ⟨e ++ used, (List.append_assoc ..).symm, fun tail => ?_⟩
    rw [List.append_assoc, decodePlane_lit hneed (readField_append he _) hp, htail]
    rfl

/-- Settles O50: every element is read alike before any tail, so the whole plane is. -/
theorem decodePlaneReadsOnlyItsElements : Obligations.DecodePlaneReadsOnlyItsElements :=
  fun total r bits rest ps h => decodePlane_usesPrefix total r bits ps rest h

/-! ### A literal packet -/

/-- The two bits of a pair are its field. -/
theorem readField_pairBits (p : Pair) (rest : Bits) : readField 2 (pairBits p ++ rest) = .ok (p.toNat, rest) := by
  have hv : value (pairBits p) = p.toNat := by
    revert p
    decide
  exact hv ▸ readField_append (s := pairBits p) rfl rest

theorem decodePlane_literalPacket (lits : List Pair) {total : Nat} (bits : Bits) (hne : ∀ p ∈ lits, p ≠ 0)
    (hlt : lits.length < total) :
    decodePlane total false (lits.flatMap pairBits ++ false :: false :: bits) =
      prependPairs lits (decodePlane (total - lits.length) true bits) := by
  induction lits generalizing total with
  | nil =>
    have h : readField 2 (false :: false :: bits) = .ok (0, bits) := readField_pairBits 0 bits
    rw [List.flatMap_nil, List.nil_append, decodePlane_lend hlt h]
    cases decodePlane total true bits <;> rfl
  | cons p lits ih =>
    have hp : p.toNat ≠ 0 := fun h => hne p List.mem_cons_self (BitVec.eq_of_toNat_eq h)
    rw [List.length_cons] at hlt
    rw [List.flatMap_cons, List.append_assoc, decodePlane_lit (by omega) (readField_pairBits p _) hp,
      BitVec.ofNat_toNat, BitVec.setWidth_eq, ih (fun q hq => hne q (List.mem_cons_of_mem p hq)) (by omega),
      ← prependPairs_append, List.length_cons, Nat.sub_sub, Nat.add_comm 1]
    rfl

/-- Settles O51: each pair is a LIT and the `00` a LEND; the two examples are literal packets, followed by the codeword
`00` and by nothing. -/
theorem terminatorIsDiscarded : Obligations.TerminatorIsDiscarded :=
  ⟨fun _ lits bits hne hlt => decodePlane_literalPacket lits bits hne hlt, rfl, rfl⟩

end Sys2Proof.Machine

/-!
SUPPORT. The steps of a launch compute `DecodeSprite`: what a state of a launch has still to give, by its phase, is
kept by every step, is `DecodeSprite` after START and is what the host reads at the end (44_sprite_decoder.md
section 4).
-/

namespace Sys2Proof.Machine

/-! ### The values of a buffer -/

/-- The values a buffer holds, by rising address. -/
def Memory.values {α : Type} (m : Memory α) : List α := m.map Prod.snd

section
variable {α : Type} {m : Memory α} {n : Nat}

theorem Memory.values_cells (a : Nat) (vs : List α) : Memory.values (Memory.cells a vs) = vs := by
  induction vs generalizing a with
  | nil => rfl
  | cons v vs ih => exact congrArg (v :: ·) (ih (a + 1))

/-- A buffer whose addresses follow each other is the cells of its values. -/
theorem Memory.eq_cells_values {a : Nat} (h : m.map Prod.fst = List.range' a n) : m = Memory.cells a m.values := by
  induction m generalizing a n with
  | nil => rfl
  | cons c m ih =>
    cases n with
    | zero => cases h
    | succ n =>
      obtain ⟨rfl, htail⟩ := List.cons.inj (h.trans (List.range'_succ ..))
      exact congrArg (c :: ·) (ih htail)

/-- A buffer filled at `0 .. n-1` reads its values. -/
theorem Memory.values_of_readRange {vs : List α} (h : m.map Prod.fst = List.range n)
    (hr : m.readRange 0 n = some vs) : m.values = vs := by
  rw [List.range_eq_range'] at h
  have hcells := Memory.eq_cells_values h
  have hlen : m.values.length = n := by
    simpa [Memory.values] using congrArg List.length h
  obtain ⟨hvs, hread⟩ := Memory.readRange_some hr
  refine List.ext_getElem? fun i => ?_
  by_cases hi : i < n
  · rw [← hread i hi, hcells, Memory.read_cells, Memory.values_cells]
    simp
  · rw [List.getElem?_eq_none (by omega), List.getElem?_eq_none (by omega)]

/-- Writing where the filled part ends appends the values. -/
theorem Memory.values_write_at_end (h : m.map Prod.fst = List.range n) (vs : List α) :
    (m.write n vs).values = m.values ++ vs := by
  have hlt : ∀ c ∈ m, c.1 < n := fun c hc => List.mem_range.1 (h ▸ List.mem_map_of_mem hc)
  have h1 : m.filter (fun c => decide (c.1 < n)) = m :=
    List.filter_eq_self.2 fun c hc => decide_eq_true (hlt c hc)
  have h2 : m.filter (fun c => decide (n + vs.length ≤ c.1)) = [] :=
    List.filter_eq_nil_iff.2 fun c hc => by
      have hc := hlt c hc
      simpa using by omega
  rw [Memory.write, h1, h2, List.append_nil, Memory.values, List.map_append]
  exact congrArg (m.values ++ ·) (Memory.values_cells n vs)

end

/-! ### `DecodeSprite` from the middle -/

/-- What `DecodeSprite` has when its pixels are made: the pixels, `W` and `H`. -/
abbrev Pixels := List Pixel × BitVec 4 × BitVec 4

/-- The last line of rule R181: the pixels assembled, or the error. -/
def assembled (l : Launch) : Except DecodeError Pixels → Answer (List Pixel)
  | .error e => .ok (.error e)
  | .ok (xs, w, h) => assemble xs w.toNat h.toNat (placeAt l.place w.toNat h.toNat)

section
variable (l : Launch) (w h : BitVec 4) (ord : Bit)

/-- Rule R181 from MERGE on, with the planes `p` and `q`. -/
def fromMerge (m : BitVec 2) (p q : Bits) : Except DecodeError Pixels := do
  let xs ← combine (modePost l.modeCfg m p q).1 (modePost l.modeCfg m p q).2 (orderOf ord)
  .ok (xs, w, h)

/-- Rule R181 from the secondary plane on: `stored` are its bits so far, `result` what the rest of it decodes to. -/
def fromPlaneS (m : BitVec 2) (p stored : Bits) (result : Except DecodeError (List Pair × Bits)) :
    Except DecodeError Pixels := do
  let (qs, _) ← result
  fromMerge l w h ord m p (stored ++ qs.flatMap pairBits)

/-- Rule R181 from PTS on. -/
def fromPtypeS (m : BitVec 2) (p bits : Bits) : Except DecodeError Pixels := do
  let (t, bits) ← readField 1 bits
  fromPlaneS l w h ord m p []
    (decodePlane (w.toNat * h.toNat * Config.pairsPerTile) (modeType l.modeCfg m (t.testBit 0)) bits)

/-- Rule R181 from MODE on. -/
def fromModef (p bits : Bits) : Except DecodeError Pixels := do
  let (m, bits) ← decodeMode bits
  fromPtypeS l w h ord m p bits

/-- Rule R181 from the primary plane on: `stored` are its bits so far, `result` what the rest of it decodes to. -/
def fromPlaneP (stored : Bits) (result : Except DecodeError (List Pair × Bits)) : Except DecodeError Pixels := do
  let (ps, bits) ← result
  fromModef l w h ord (stored ++ ps.flatMap pairBits) bits

/-- Rule R181 from PTP on. -/
def fromPtypeP (bits : Bits) : Except DecodeError Pixels := do
  let (t, bits) ← readField 1 bits
  fromPlaneP l w h ord []
    (decodePlane (w.toNat * h.toNat * Config.pairsPerTile) (startsWithRun (t.testBit 0)) bits)

/-- Rule R181 from ORD on. -/
def fromOrdf (bits : Bits) : Except DecodeError Pixels := do
  let (f, bits) ← readField 1 bits
  fromPtypeP l w h (f.testBit 0) bits

/-- Rule R181 from DIM on. -/
def fromHdr (bits : Bits) : Except DecodeError Pixels := do
  let (b, bits) ← readField 8 bits
  if dimsLegal (BitVec.ofNat 4 (b / 16)) (BitVec.ofNat 4 b) then
    fromOrdf l (BitVec.ofNat 4 b) (BitVec.ofNat 4 (b / 16)) bits
  else .error .invalidDimensions

variable (m : BitVec 2) (p stored : Bits) (ps : List Pair) (bits : Bits)
  (result : Except DecodeError (List Pair × Bits))

/-- Pairs that are stored are as good as pairs in front of the rest of the plane. -/
theorem fromPlaneP_stored : fromPlaneP l w h ord (stored ++ ps.flatMap pairBits) result =
    fromPlaneP l w h ord stored (prependPairs ps result) := by
  cases result with
  | error e => rfl
  | ok r => simp [fromPlaneP, prependPairs, bind, Except.bind]

theorem fromPlaneS_stored : fromPlaneS l w h ord m p (stored ++ ps.flatMap pairBits) result =
    fromPlaneS l w h ord m p stored (prependPairs ps result) := by
  cases result with
  | error e => rfl
  | ok r => simp [fromPlaneS, prependPairs, bind, Except.bind]

/-- A complete plane goes on after it. -/
theorem fromPlaneP_complete : fromPlaneP l w h ord stored (.ok ([], bits)) = fromModef l w h ord stored bits := by
  simp [fromPlaneP, bind, Except.bind]

theorem fromPlaneS_complete : fromPlaneS l w h ord m p stored (.ok ([], bits)) = fromMerge l w h ord m p stored := by
  simp [fromPlaneS, bind, Except.bind]

end

theorem decodePixels_eq_fromHdr (l : Launch) : decodePixels l = fromHdr l (l.input.drop l.base) := by
  unfold decodePixels decodeHeader fromHdr
  cases readField 8 (l.input.drop l.base) with
  | error e => rfl
  | ok r =>
    obtain ⟨b, bits⟩ := r
    simp only [bind, Except.bind]
    cases dimsLegal (BitVec.ofNat 4 (b / 16)) (BitVec.ofNat 4 b) with
    | false => rfl
    | true =>
      unfold fromOrdf
      cases readField 1 bits <;> rfl

/-- What a plane phase goes on with, given what the rest of its plane decodes to. -/
def State.afterPlane (s : State) (result : Except DecodeError (List Pair × Bits)) : Except DecodeError Pixels :=
  match s.phase with
  | .planeP => fromPlaneP s.launch s.tw s.th s.ord s.planeP.values result
  | _ => fromPlaneS s.launch s.tw s.th s.ord s.mode s.planeP.values s.planeS.values result

/-- What the plane of a plane phase has still to decode. -/
def State.restOfPlane (s : State) : Except DecodeError (List Pair × Bits) :=
  decodePlane (s.total.toNat - s.cnt.toNat) s.isRun s.remaining

/-- What a state of a launch has still to give, and what it gave at `DONE` and `FAULT`. -/
def spriteFrom (s : State) : Answer (List Pixel) :=
  match s.phase with
  | .idle => .error .wrongContext
  | .hdr => assembled s.launch (fromHdr s.launch s.remaining)
  | .ordf => assembled s.launch (fromOrdf s.launch s.tw s.th s.remaining)
  | .ptypeP => assembled s.launch (fromPtypeP s.launch s.tw s.th s.ord s.remaining)
  | .planeP | .planeS => assembled s.launch (s.afterPlane s.restOfPlane)
  | .modef => assembled s.launch (fromModef s.launch s.tw s.th s.ord s.planeP.values s.remaining)
  | .ptypeS => assembled s.launch (fromPtypeS s.launch s.tw s.th s.ord s.mode s.planeP.values s.remaining)
  | .merge => assembled s.launch
      (fromMerge s.launch s.tw s.th s.ord s.mode s.planeP.values s.planeS.values)
  | .route => assembled s.launch (.ok (s.pix.values, s.tw, s.th))
  | .done => .ok (.ok s.canvas.values)
  | .fault => .ok (.error (s.err.getD .cursorExhausted))

/-! ### One element -/

theorem readField_lt {n v : Nat} {bits rest : Bits} (h : readField n bits = .ok (v, rest)) : v < 2 ^ n := by
  obtain ⟨s, -, rfl, rfl⟩ := readField_ok h
  exact value_lt s

/-- The element of the mode bits latches their value. -/
theorem effectOf_modeInstr {m : Nat} (hm : m < 4) (s : State) :
    effectOf (modeInstr m) s = latchMode (BitVec.ofNat 2 m) s := by
  interval_cases m <;> rfl

/-- The element of a pair is LEND or emits the pair. -/
theorem effectOf_pairInstr {p : Nat} (hp : p < 4) (s : State) : effectOf (pairInstr p) s =
    if p = 0 then .next (s.setIsRun true) else emitPairs [BitVec.ofNat 2 p] s.isRun s := by
  interval_cases p <;> rfl

theorem effectOf_of_runFields {i : Instr} {k v : Nat} (h : i.runFields = some (k, v)) (s : State) :
    effectOf i s = emitRun k v s := by
  cases i <;> simp [Instr.runFields] at h <;> obtain ⟨rfl, rfl⟩ := h <;> rfl

section
variable {s t : State} {c : Ctx} (hcur : s.cur ≤ s.len) (hc : contextOf s = some c) (h : step s = .next t)

include hc h in
/-- An element that `LEN` cuts ends the launch with its error, which is what it has to give. -/
theorem spriteFrom_of_decode_error {e : DecodeError} (hd : decode c s.remaining = .error e) :
    spriteFrom t = .ok (.error e) := by
  rw [step_raises hc hd] at h
  cases h
  rfl

include hcur hc h in
/-- An element that was fetched takes its effect before the rest of the bits. -/
theorem effectOf_of_decode_ok {i : Instr} {rest : Bits} (hd : decode c s.remaining = .ok (i, rest)) :
    rest = (s.advance i.length).remaining ∧ s.cur + i.length ≤ s.len ∧
      effectOf i (s.advance i.length) = .next t := by
  obtain ⟨hw, rfl, hb⟩ := decode_beginsWith hd
  have hdrop := congrArg (List.drop i.length) hb
  rw [List.drop_left' (encode_length hw), State.remaining, List.drop_drop] at hdrop
  have hfit := fetched_fits hcur hd
  rw [step_runs hc hd, exec_runs hc hfit] at h
  exact ⟨hdrop.symm, hfit, h⟩

end

section
variable {s t : State} (hcur : s.cur ≤ s.len) (h : step s = .next t)
include hcur h

theorem spriteFrom_step_hdr (hp : s.phase = .hdr) : spriteFrom t = spriteFrom s := by
  have hc := contextOf_hdr.mpr hp
  have hs : spriteFrom s = assembled s.launch (fromHdr s.launch s.remaining) := by rw [spriteFrom, hp]
  rw [hs, fromHdr]
  cases hr : readField 8 s.remaining with
  | error e => exact spriteFrom_of_decode_error hc h (by simp only [decode, hr])
  | ok r =>
    obtain ⟨b, rest⟩ := r
    obtain ⟨rfl, hfit, he⟩ := effectOf_of_decode_ok hcur hc h
      (i := .dim (BitVec.ofNat 4 (b / 16)) (BitVec.ofNat 4 b)) (rest := rest) (by simp only [decode, hr])
    obtain ⟨hd, rfl⟩ | ⟨hd, rfl⟩ := latchDims_cases he
    · exact congrArg (assembled s.launch) (if_pos hd).symm
    · simp only [bind, Except.bind, hd]
      rfl

theorem spriteFrom_step_ordf (hp : s.phase = .ordf) : spriteFrom t = spriteFrom s := by
  have hc := contextOf_ordf.mpr hp
  have hs : spriteFrom s = assembled s.launch (fromOrdf s.launch s.tw s.th s.remaining) := by rw [spriteFrom, hp]
  rw [hs, fromOrdf]
  cases hr : readField 1 s.remaining with
  | error e => exact spriteFrom_of_decode_error hc h (by simp only [decode, hr])
  | ok r =>
    obtain ⟨f, rest⟩ := r
    obtain ⟨rfl, hfit, he⟩ := effectOf_of_decode_ok hcur hc h (i := .ord (f.testBit 0)) (rest := rest)
      (by simp only [decode, hr])
    cases he
    rfl

end

/-- The whole of a plane is to come where it begins. -/
theorem spriteFrom_beginPlaneP (s : State) (b : Bit) :
    spriteFrom (((s.setIsRun b).setCnt 0).setPhase .planeP) = assembled s.launch
      (fromPlaneP s.launch s.tw s.th s.ord s.planeP.values (decodePlane s.total.toNat b s.remaining)) := rfl

theorem spriteFrom_beginPlaneS (s : State) (b : Bit) :
    spriteFrom (((s.setIsRun b).setCnt 0).setPhase .planeS) = assembled s.launch
      (fromPlaneS s.launch s.tw s.th s.ord s.mode s.planeP.values s.planeS.values
        (decodePlane s.total.toNat b s.remaining)) := rfl

section
variable {s t : State} (hI : Inv s) (h : step s = .next t)
include hI h

theorem spriteFrom_step_ptypeP (hp : s.phase = .ptypeP) : spriteFrom t = spriteFrom s := by
  have hcur := (hI.cur (by simp [hp]) (by simp [hp])).2
  have hc := contextOf_ptypeP.mpr hp
  have hs : spriteFrom s = assembled s.launch (fromPtypeP s.launch s.tw s.th s.ord s.remaining) := by
    rw [spriteFrom, hp]
  rw [hs, fromPtypeP]
  cases hr : readField 1 s.remaining with
  | error e => exact spriteFrom_of_decode_error hc h (by simp only [decode, hr])
  | ok r =>
    obtain ⟨b, rest⟩ := r
    obtain ⟨rfl, hfit, he⟩ := effectOf_of_decode_ok hcur hc h (i := .ptp (b.testBit 0)) (rest := rest)
      (by simp only [decode, hr])
    cases he
    have hempty : s.planeP = [] := by simpa [filledP, hp] using hI.planeP
    have htotal := (hI.header (by simp [hp, headerRead])).2
    have ht := spriteFrom_beginPlaneP (s.advance 1) (startsWithRun (b.testBit 0))
    rw [State.advance_planeP, State.advance_total, hempty, htotal] at ht
    exact ht

theorem spriteFrom_step_modef (hp : s.phase = .modef) : spriteFrom t = spriteFrom s := by
  have hcur := (hI.cur (by simp [hp]) (by simp [hp])).2
  have hc := contextOf_modef.mpr hp
  have hs : spriteFrom s =
      assembled s.launch (fromModef s.launch s.tw s.th s.ord s.planeP.values s.remaining) := by
    rw [spriteFrom, hp]
  rw [hs, fromModef, decodeMode]
  cases hr : readField 2 s.remaining with
  | error e => exact spriteFrom_of_decode_error hc h (by simp only [decode, hr])
  | ok r =>
    obtain ⟨m, rest⟩ := r
    obtain ⟨rfl, hfit, he⟩ := effectOf_of_decode_ok hcur hc h (i := modeInstr m) (rest := rest)
      (by simp only [decode, hr])
    rw [modeInstr_length] at he hr ⊢
    have hm : m < 4 := readField_lt hr
    rw [effectOf_modeInstr hm] at he
    obtain ⟨hm0, rfl⟩ | ⟨hm0, rfl⟩ := latchMode_cases he
    · have hne : m ≠ 0 := fun h0 => hm0 (by rw [h0]; rfl)
      simp only [bind, Except.bind, hne, if_false]
      rfl
    · have hzero : m = 0 := by
        have htoNat := congrArg BitVec.toNat hm0
        rw [BitVec.toNat_ofNat, Nat.mod_eq_of_lt hm] at htoNat
        exact htoNat
      simp only [bind, Except.bind, hzero, if_true]
      rfl

theorem spriteFrom_step_ptypeS (hp : s.phase = .ptypeS) : spriteFrom t = spriteFrom s := by
  have hcur := (hI.cur (by simp [hp]) (by simp [hp])).2
  have hc := contextOf_ptypeS.mpr hp
  have hs : spriteFrom s =
      assembled s.launch (fromPtypeS s.launch s.tw s.th s.ord s.mode s.planeP.values s.remaining) := by
    rw [spriteFrom, hp]
  rw [hs, fromPtypeS]
  cases hr : readField 1 s.remaining with
  | error e => exact spriteFrom_of_decode_error hc h (by simp only [decode, hr])
  | ok r =>
    obtain ⟨b, rest⟩ := r
    obtain ⟨rfl, hfit, he⟩ := effectOf_of_decode_ok hcur hc h (i := .pts (b.testBit 0)) (rest := rest)
      (by simp only [decode, hr])
    cases he
    have hempty : s.planeS = [] := by simpa [filledS, hp] using hI.planeS
    have htotal := (hI.header (by simp [hp, headerRead])).2
    have ht := spriteFrom_beginPlaneS (s.advance 1) (modeType s.launch.modeCfg s.mode (b.testBit 0))
    rw [State.advance_planeS, State.advance_total, hempty, htotal] at ht
    exact ht

end

/-! ### The elements of a plane -/

theorem spriteFrom_of_plane {s : State} (hp : s.phase = .planeP ∨ s.phase = .planeS) :
    spriteFrom s = assembled s.launch (s.afterPlane s.restOfPlane) := by
  obtain hp | hp := hp <;> rw [spriteFrom, hp]

/-- An emission leaves to give what the plane gives with the pairs before the rest of it. -/
theorem spriteFrom_emit {s : State} (hI : Inv s) (ps : List Pair) (k pv rv n : Nat)
    (hp : s.phase = .planeP ∨ s.phase = .planeS) (hfit : s.cnt.toNat + ps.length ≤ s.total.toNat) :
    spriteFrom (((s.setVarint k pv rv n).emit ps).setIsRun false).completePlane =
      assembled s.launch (s.afterPlane (prependPairs ps
        (decodePlane (s.total.toNat - s.cnt.toNat - ps.length) false s.remaining))) := by
  have hcnt : (BitVec.ofNat 11 (s.cnt.toNat + ps.length)).toNat = s.cnt.toNat + ps.length := by
    have htotal := s.total.isLt
    rw [BitVec.toNat_ofNat]
    omega
  rw [emit_setIsRun_completePlane ps false (s.setVarint k pv rv n) hp hfit]
  have hneed : s.total.toNat - s.cnt.toNat - ps.length =
      s.total.toNat - (BitVec.ofNat 11 (s.cnt.toNat + ps.length)).toNat := by
    rw [hcnt]
    omega
  rw [hneed]
  obtain hp | hp := hp
  · have hkeys : s.planeP.map Prod.fst = List.range (2 * s.cnt.toNat) := by simpa [filledP, hp] using hI.planeP
    simp only [State.afterPlane, hp]
    rw [← fromPlaneP_stored, ← Memory.values_write_at_end hkeys]
    by_cases hfull : s.cnt.toNat + ps.length = s.total.toNat
    · rw [← hfull, hcnt, Nat.sub_self, decodePlane_zero, fromPlaneP_complete]
      simp only [spriteFrom, State.setVarint_phase, State.setVarint_cnt, State.setVarint_total, hp, hfull, if_true]
      rfl
    · simp only [spriteFrom, State.setVarint_phase, State.setVarint_cnt, State.setVarint_total, hp, hfull, if_false]
      rfl
  · have hkeys : s.planeS.map Prod.fst = List.range (2 * s.cnt.toNat) := by simpa [filledS, hp] using hI.planeS
    simp only [State.afterPlane, hp]
    rw [← fromPlaneS_stored, ← Memory.values_write_at_end hkeys]
    by_cases hfull : s.cnt.toNat + ps.length = s.total.toNat
    · rw [← hfull, hcnt, Nat.sub_self, decodePlane_zero, fromPlaneS_complete]
      simp only [spriteFrom, State.setVarint_phase, State.setVarint_cnt, State.setVarint_total, hp, hfull, if_true]
      rfl
    · simp only [spriteFrom, State.setVarint_phase, State.setVarint_cnt, State.setVarint_total, hp, hfull, if_false]
      rfl

/-- A plane whose rest fails gives the error. -/
theorem afterPlane_error (s : State) (e : DecodeError) : s.afterPlane (.error e) = .error e := by
  unfold State.afterPlane
  split <;> rfl

section
variable {s t : State} (hI : Inv s) (h : step s = .next t)
include hI h

theorem spriteFrom_step_run (hc : contextOf s = some .run) : spriteFrom t = spriteFrom s := by
  obtain ⟨hp, hcnt, hrun⟩ := contextOf_run.mp hc
  have hcur := (hI.cur (by obtain hp | hp := hp <;> simp [hp]) (phase_ne_fault_of_contextOf hc)).2
  have hneed : 0 < s.total.toNat - s.cnt.toNat := Nat.sub_pos_of_lt hcnt
  rw [spriteFrom_of_plane hp, State.restOfPlane, hrun]
  cases hr : varintDecode s.remaining with
  | error e =>
    rw [decodePlane_run_error hneed hr, afterPlane_error]
    exact spriteFrom_of_decode_error hc h (by simp only [decode, hr])
  | ok r =>
    obtain ⟨v, rest⟩ := r
    obtain ⟨hk, hv, -, hpv, hn⟩ := varintDecode_ok hr
    obtain ⟨rfl, hfit, he⟩ := effectOf_of_decode_ok hcur hc h (i := runInstr v.k v.rv) (rest := rest)
      (by simp only [decode, hr])
    have hlength : runLength v.k v.rv = v.n := by
      rw [runLength, runPrefixValue_eq hk, ← hpv, ← hn]
    have hpairs : runPairs v.n (s.total.toNat - s.cnt.toNat) 0 = runPairs v.n s.total.toNat s.cnt.toNat := rfl
    rw [effectOf_of_runFields (runFields_runInstr hk hv).1] at he
    obtain ⟨-, rfl⟩ := emitRun_cases he
    rw [decodePlane_run hneed hr, hpairs, hlength]
    have hroom : s.cnt.toNat + (List.replicate (runPairs v.n s.total.toNat s.cnt.toNat) 0#2).length ≤
        s.total.toNat := by
      rw [List.length_replicate, runPairs]
      omega
    have hemit := spriteFrom_emit (hI.advance hfit) (List.replicate (runPairs v.n s.total.toNat s.cnt.toNat) 0)
      v.k (runPrefixValue v.k) v.rv v.n hp hroom
    rw [List.length_replicate] at hemit
    exact hemit

theorem spriteFrom_step_literal (hc : contextOf s = some .literal) : spriteFrom t = spriteFrom s := by
  obtain ⟨hp, hcnt, hrun⟩ := contextOf_literal.mp hc
  have hcur := (hI.cur (by obtain hp | hp := hp <;> simp [hp]) (phase_ne_fault_of_contextOf hc)).2
  have hneed : 0 < s.total.toNat - s.cnt.toNat := Nat.sub_pos_of_lt hcnt
  rw [spriteFrom_of_plane hp, State.restOfPlane, hrun]
  cases hr : readField 2 s.remaining with
  | error e =>
    rw [decodePlane_pair_error hneed hr, afterPlane_error]
    exact spriteFrom_of_decode_error hc h (by simp only [decode, hr])
  | ok r =>
    obtain ⟨p, rest⟩ := r
    obtain ⟨rfl, hfit, he⟩ := effectOf_of_decode_ok hcur hc h (i := pairInstr p) (rest := rest)
      (by simp only [decode, hr])
    rw [effectOf_pairInstr (readField_lt hr)] at he
    split at he
    case isTrue hp0 =>
      cases he
      subst hp0
      rw [decodePlane_lend hneed hr]
      exact spriteFrom_of_plane (s := (s.advance 2).setIsRun true) hp
    case isFalse hp0 =>
      obtain ⟨-, rfl⟩ := emitPairs_cases he
      rw [decodePlane_lit hneed hr hp0]
      have hemit := spriteFrom_emit (hI.advance (n := 2) (pairInstr_length p ▸ hfit)) [BitVec.ofNat 2 p]
        s.k s.pv s.rv s.n hp hcnt
      rw [pairInstr_length, State.advance_isRun, hrun]
      exact hemit

theorem spriteFrom_step_merge (hp : s.phase = .merge) : spriteFrom t = spriteFrom s := by
  rw [step_merge hp] at h
  obtain ⟨-, p, q, hP, hQ, hspace, rfl⟩ := execMerge_pixels h
  have hvP := Memory.values_of_readRange (by simpa [filledP, hp] using hI.planeP) hP
  have hvQ := Memory.values_of_readRange (by simpa [filledS, hp] using hI.planeS) hQ
  have hempty : s.pix = [] := by simpa [filledPix, hp] using hI.pix
  obtain ⟨hlp, hlq⟩ := modePost_planes_length hP hQ
  have hs : spriteFrom s = assembled s.launch
      (fromMerge s.launch s.tw s.th s.ord s.mode s.planeP.values s.planeS.values) := by rw [spriteFrom, hp]
  have hpix : (s.pix.write 0 (s.mergedPixels p q)).values = s.mergedPixels p q := by
    rw [hempty]
    exact Memory.values_write_at_end (n := 0) rfl _
  rw [hs, fromMerge, hvP, hvQ, combine_of_length_eq _ (hlp.trans hlq.symm)]
  exact congrArg (fun xs => assembled s.launch (.ok (xs, s.tw, s.th))) hpix

theorem spriteFrom_step_route (hp : s.phase = .route) : spriteFrom t = spriteFrom s := by
  rw [step_route hp] at h
  obtain ⟨-, xs, hr, hd, rfl⟩ := execRoute_grid h
  have hvalues := Memory.values_of_readRange (hI.filledPix_of_route hp ▸ hI.pix) hr
  have hempty : s.canvas = [] := by simpa [filledCanvas, hp] using hI.canvas
  have hs : spriteFrom s = assembled s.launch (.ok (s.pix.values, s.tw, s.th)) := by rw [spriteFrom, hp]
  have hdone (g : List Pixel) : spriteFrom ((s.writeCanvas g).setPhase .done) = .ok (.ok g) := by
    rw [spriteFrom, State.setPhase_phase, State.setPhase_canvas, State.writeCanvas_canvas, hempty,
      Memory.values_write_at_end (n := 0) rfl]
    rfl
  rw [hs, hvalues, assembled, assemble_of_length_eq hd (Memory.readRange_some hr).1]
  exact hdone _

end

theorem spriteFrom_step {s t : State} (hI : Inv s) (hr : stopped s = false) (h : step s = .next t) :
    spriteFrom t = spriteFrom s := by
  obtain ⟨c, hc⟩ | hp | hp := hI.enabled_cases hr
  · have hcur := (hI.cur (by rintro hp; simp [contextOf, hp] at hc) (phase_ne_fault_of_contextOf hc)).2
    cases c with
    | hdr => exact spriteFrom_step_hdr hcur h (contextOf_hdr.mp hc)
    | ordf => exact spriteFrom_step_ordf hcur h (contextOf_ordf.mp hc)
    | ptypeP => exact spriteFrom_step_ptypeP hI h (contextOf_ptypeP.mp hc)
    | run => exact spriteFrom_step_run hI h hc
    | literal => exact spriteFrom_step_literal hI h hc
    | modef => exact spriteFrom_step_modef hI h (contextOf_modef.mp hc)
    | ptypeS => exact spriteFrom_step_ptypeS hI h (contextOf_ptypeS.mp hc)
  · exact spriteFrom_step_merge hI h hp
  · exact spriteFrom_step_route hI h hp

/-! ### From START to the end -/

theorem spriteFrom_start {l : Launch} (s : State) (hl : launchAdmitted l = true) :
    spriteFrom (s.start l) = decodeSprite l := by
  have hs : spriteFrom (s.start l) = assembled l (fromHdr l (l.input.drop l.base)) := rfl
  rw [hs, ← decodePixels_eq_fromHdr, decodeSprite, if_pos hl]
  cases decodePixels l <;> rfl

/-- At the end what the launch gave is what the host reads. -/
theorem spriteFrom_of_stopped {s : State} (hI : Inv s) (hp : s.phase = .done ∨ s.phase = .fault) :
    ∃ r, spriteFrom s = .ok r ∧ result s = some r := by
  obtain hp | hp := hp
  · have hfilled := filledCanvas_of_done hp
    obtain ⟨g, hg, -⟩ := Memory.readRange_of_keys (hfilled ▸ hI.canvas) le_rfl
    have hvalues := Memory.values_of_readRange (hfilled ▸ hI.canvas) hg
    exact ⟨.ok g, by rw [spriteFrom, hp, ← hvalues], by rw [result_of_done hp, hg]; rfl⟩
  · obtain ⟨e, he⟩ := Option.isSome_iff_exists.mp (hI.err.mpr hp)
    exact ⟨.error e, by rw [spriteFrom, hp, he]; rfl, by rw [result, hp, he]⟩

/-- Settles O46: the steps keep what is left to give, which START makes `DecodeSprite`. -/
theorem stepsComputeDecodeSprite : Obligations.StepsComputeDecodeSprite := by
  intro s l rest hs hp hl
  obtain ⟨n, t, -, -, ht, hstop, hin, hsprite⟩ :=
    exists_run_to_stop (P := fun t => InLaunch l rest t ∧ spriteFrom t = decodeSprite l) (fun _ h => h.1.inv)
      (fun _ _ h hr hs => ⟨h.1.step hr hs, (spriteFrom_step h.1.inv hr hs).trans h.2⟩)
      ⟨inLaunch_start s rest hl, spriteFrom_start _ hl⟩
  obtain ⟨r, hr, hresult⟩ := spriteFrom_of_stopped hin.inv (hin.done_or_fault hstop)
  exact ⟨n + 1, t, (run_succ (step_start hs hp hl)).trans ht, hstop, hin.launch, hin.pending, r,
    hsprite ▸ hr, hresult⟩

/-- A grid that the host reads covers the canvas. -/
theorem length_of_result {s : State} {g : List Pixel} (h : result s = some (.ok g)) : g.length = 56 * 56 := by
  unfold result at h
  split at h
  · obtain ⟨g', hg, hok⟩ := Option.map_eq_some_iff.mp h
    rw [← Except.ok.inj hok]
    exact (Memory.readRange_some hg).1
  · cases h
  · cases h

/-- Settles O53: the launch, started from power-on, computes the value, and what the host reads is a whole grid. -/
theorem decodeSpriteRefusesOutsideItsDomain : Obligations.DecodeSpriteRefusesOutsideItsDomain := by
  intro l
  rw [← launchAdmitted_iff]
  refine ⟨fun hl => ?_, fun hl => if_neg hl⟩
  obtain ⟨n, t, -, -, -, -, r, hr, hresult⟩ :=
    stepsComputeDecodeSprite { State.reset with pending := [l] } l [] rfl rfl hl
  exact ⟨r, hr, fun g hg => length_of_result (hg ▸ hresult)⟩

end Sys2Proof.Machine
